-- ==== Sys2Proof/Word.lean ====
section
/-! DEFINITION. The words of the AD9851 tuning-word core (00_scope.md R10): the widths of what the core moves and
holds as bits. Everything the rules compute is computed on integers (R11) and narrowed to one of these at the end. -/

namespace Sys2Proof

/-- A command word, `CMD_W` = 40 bits (R10, R48). -/
abbrev CmdWord := BitVec 40

/-- The opcode field, bits 39:32 of a command word (R49). -/
abbrev OpField := BitVec 8

/-- The operand field, bits 31:0 of a command word, `ARG_W` = 32 bits (R10, R49). -/
abbrev ArgField := BitVec 32

/-- Register ECLK, `ECLK_W` = 32 bits (R10, R15). -/
abbrev Clock := BitVec 32

/-- A tuning word, `TW_W` = 32 bits (R10). -/
abbrev TuningWord := BitVec 32

/-- Register RECIP in the widest container any parameter asks for, 65 bits. Its own width is `RECIP_W` or 64
(R10, R16). DESIGN CHOICE, log entry 6. -/
abbrev RecipWord := BitVec 65

/-- Register SHIFT and the `sh` field of a response, `SHIFT_W` = 6 bits (R10, R17, R29). -/
abbrev ShiftWord := BitVec 6

/-- The `val` field of a response in its widest container, 65 bits; its own width is max(64, `RECIP_W`) (R29).
DESIGN CHOICE, log entry 6. -/
abbrev ValWord := BitVec 65

/-- The control byte (R8, R101). -/
abbrev CtrlByte := BitVec 8

/-- A frame, `FRAME_W` = 40 bits (R10, R38). -/
abbrev Frame := BitVec 40

end Sys2Proof
end

