-- ==== Sys2Proof/Config.lean ====
section
/-! DEFINITION. What is fixed about the core: the static parameters a model takes (00_scope.md R8, R9), the fixed
constants (R10), and the values the spec leaves unspecified after reset (10_state.md R33). -/

namespace Sys2Proof

/-- The precision mode of the reciprocal, "system-wide mode, not per-call" (R9). -/
inductive Mode where
  | shiftScaled
  | maxPrecision
deriving DecidableEq, Repr

/-- The static parameters (R8): set before reset is released, constant while the core runs (R25). Any value of this
type may be written down; `Params.wf` (WellFormed.lean) says which are legal. -/
structure Params where
  /-- `NOMINAL`, the reference oscillator before calibration, hertz. -/
  nominal  : BitVec 32
  /-- `MODE`. -/
  mode     : Mode
  /-- `RECIP_W`, the width of RECIP in `SHIFT_SCALED` mode. -/
  recipW   : Nat
  /-- `CTRL_BYTE`, the fifth byte of every frame. -/
  ctrlByte : CtrlByte
deriving DecidableEq, Repr

namespace Config

/-- `GIGA`, the constant 10^9 of the calibration formula (R10). -/
abbrev giga : Nat := 1000000000

/-- `BIAS_DIV`, the divisor of the rounding bias (R10, R85). -/
abbrev biasDiv : Nat := 16

/-- `HALF`, the rounding addend of `MAX_PRECISION` mode (R10, R86). -/
abbrev half : Nat := 2147483648

/-- `ACC_W`, the accumulator width of the tuning-word computation in both modes (R10, R88). -/
abbrev accW : Nat := 64

/-- `ECLK_W` (R10). -/
abbrev eclkW : Nat := 32

/-- `RECIP_MAX_W`, the width of RECIP in `MAX_PRECISION` mode (R10). -/
abbrev recipMaxW : Nat := 64

/-- The parameters `State.reset` starts with. `MODE` and `RECIP_W` are the spec's defaults (R8); `NOMINAL` is the
clock of the document's worked scenarios and `CTRL_BYTE` the byte of the spec's examples.
DESIGN CHOICE, unsafe, log entry 1: R8 leaves `NOMINAL` and `CTRL_BYTE` OPEN. -/
def resetParams : Params where
  nominal  := 180000000#32
  mode     := .shiftScaled
  recipW   := 32
  ctrlByte := 0x01#8

/-- What ECLK holds after reset: unspecified (R33), so a constant with no body.
DESIGN CHOICE, unsafe, log entry 2. -/
opaque resetEclk : Clock

/-- What RECIP holds after reset, before it is cut to the register's width: unspecified (R33), so a constant with no
body. DESIGN CHOICE, unsafe, log entry 2. -/
opaque resetRecip : RecipWord

/-- What SHIFT holds after reset in `SHIFT_SCALED` mode: unspecified (R33), so a constant with no body.
DESIGN CHOICE, unsafe, log entry 2. -/
opaque resetShift : ShiftWord

end Config

/-- The width of register RECIP: `RECIP_W` in `SHIFT_SCALED` mode, 64 in `MAX_PRECISION` mode (R16). -/
def Params.recipWidth (p : Params) : Nat :=
  match p.mode with
  | .shiftScaled  => p.recipW
  | .maxPrecision => Config.recipMaxW

/-- The width of the `val` field of the response port, max(64, `RECIP_W`) (R29). -/
def Params.valWidth (p : Params) : Nat := max 64 p.recipW

end Sys2Proof
end

