-- ==== Sys2Proof/Syntax.lean ====
section
/-! DEFINITION. The command set (30_encoding.md R52, R59): one constructor per row of spec/opcode_table.json. Operands
are the integers of R50, as an assembler writes them; which of them a command word can spell is `Instr.wf`
(WellFormed.lean). -/

namespace Sys2Proof

/-- The five commands (R52). "The five commands of rule R52 are the whole command set" (R59). -/
inductive Instr where
  /-- `CAL ppb`, the document's `setCalibration(ppb)`; ppb is signed, in parts per billion (R63). -/
  | cal (ppb : Int)
  /-- `DERIVE`, the document's `deriveReciprocal(EffectiveClock)` (R75). -/
  | derive
  /-- `F2W f`, the document's `frequencyToTuningWordOnly(freqHz)`; f in hertz (R90). -/
  | f2w (f : Nat)
  /-- `SETF f`, the document's `setFrequency(freqHz)`; f in hertz (R97). -/
  | setf (f : Nat)
  /-- `SENDRAW word`, the document's `sendRawTuningWord(word)` (R98). -/
  | sendraw (word : Nat)
deriving DecidableEq, Repr

end Sys2Proof
end

