-- ==== Sys2Proof/WellFormed.lean ====
section
/-! DEFINITION. Which commands a command word can spell (30_encoding.md R50, R55) and which parameters the core may be
given (00_scope.md R8). -/

namespace Sys2Proof

/-- The operand is in the range R50 gives it: `ppb` in -2^31 .. 2^31 - 1, every other operand in 0 .. 2^32 - 1. Any
other "cannot be spelled; an assembler must refuse it rather than truncate it" (R55). -/
def Instr.wf : Instr → Bool
  | .cal ppb      => decide (-2147483648 ≤ ppb) && decide (ppb ≤ 2147483647)
  | .derive       => true
  | .f2w f        => decide (f ≤ 4294967295)
  | .setf f       => decide (f ≤ 4294967295)
  | .sendraw word => decide (word ≤ 4294967295)

/-- The constraints of R8: 1 <= NOMINAL (its 32 bits bound it above) and 32 <= RECIP_W <= 65. `MODE` and `CTRL_BYTE`
are free. -/
def Params.wf (p : Params) : Bool :=
  p.nominal != 0#32 && decide (32 ≤ p.recipW) && decide (p.recipW ≤ 65)

end Sys2Proof
end

