-- ==== Sys2Proof/Decode.lean ====
section
/-! DEFINITION. The decoder of R51, total on every 40-bit word and rejecting by name, and after it the encoder and the
assembler's refusal (30_encoding.md R49 to R56). A command word is moved whole and has no byte-level view (R39, R40),
so the decoder takes the 40-bit word. -/

namespace Sys2Proof

/-- Why a command word is `ILLEGAL` (R51, R53). -/
inductive Illegal where
  /-- The opcode is 0x00 or 0x06 to 0xFF. -/
  | reservedOpcode (op : OpField)
  /-- The opcode is `DERIVE`'s and the operand field is not zero. -/
  | deriveOperand (arg : ArgField)
deriving DecidableEq, Repr

/-- `w[39:32]` (R49). -/
def opField (w : CmdWord) : OpField := w.extractLsb' 32 8

/-- `w[31:0]` (R49). -/
def argField (w : CmdWord) : ArgField := w.extractLsb' 0 32

/-- `sext_32`: the field read as two's complement (R11, R50). -/
def sext32 (arg : ArgField) : Int :=
  if arg.toNat < 2 ^ 31 then (arg.toNat : Int) else (arg.toNat : Int) - 2 ^ 32

/-- `zext`: the field read as an unsigned integer (R11, R50). -/
def zext (arg : ArgField) : Nat := arg.toNat

/-- Decoding a command word (R51). It reads no state and does not depend on `MODE`. -/
def decode (w : CmdWord) : Except Illegal Instr :=
  if opField w = 0x01#8 then .ok (.cal (sext32 (argField w)))
  else if opField w = 0x02#8 then
    if argField w = 0#32 then .ok .derive else .error (.deriveOperand (argField w))
  else if opField w = 0x03#8 then .ok (.f2w (zext (argField w)))
  else if opField w = 0x04#8 then .ok (.setf (zext (argField w)))
  else if opField w = 0x05#8 then .ok (.sendraw (zext (argField w)))
  else .error (.reservedOpcode (opField w))

/-- The `op` column of R52. -/
def Instr.opcode : Instr → OpField
  | .cal _     => 0x01#8
  | .derive    => 0x02#8
  | .f2w _     => 0x03#8
  | .setf _    => 0x04#8
  | .sendraw _ => 0x05#8

/-- `trunc_32(operand)`, for a negative ppb that of its two's-complement value (R56); zero for `DERIVE` (R49). -/
def Instr.argument : Instr → ArgField
  | .cal ppb      => BitVec.ofInt 32 ppb
  | .derive       => 0#32
  | .f2w f        => BitVec.ofNat 32 f
  | .setf f       => BitVec.ofNat 32 f
  | .sendraw word => BitVec.ofNat 32 word

/-- `op ∥ arg` (R49), which is `op * 2^32 + trunc_32(operand)` (R56). -/
def encode (i : Instr) : CmdWord := i.opcode ++ i.argument

/-- The assembler's view of one command: the word of a command whose operand can be spelled, a refusal of any other
(R55, R56). -/
def assemble (i : Instr) : Option CmdWord := if i.wf then some (encode i) else none

/-- The `match` column of R52: what a word of the command's row has in the bits of the row's mask. -/
def Instr.tableMatch : Instr → CmdWord
  | .cal _     => 0x0100000000#40
  | .derive    => 0x0200000000#40
  | .f2w _     => 0x0300000000#40
  | .setf _    => 0x0400000000#40
  | .sendraw _ => 0x0500000000#40

/-- The `mask` column of R52. -/
def Instr.tableMask : Instr → CmdWord
  | .cal _     => 0xFF00000000#40
  | .derive    => 0xFFFFFFFFFF#40
  | .f2w _     => 0xFF00000000#40
  | .setf _    => 0xFF00000000#40
  | .sendraw _ => 0xFF00000000#40

/-- The command word whose bits the opcode table numbers as `w`: the low `nbits` bits of `w`, zero above. -/
def tableWord (nbits w : Nat) : CmdWord := BitVec.ofNat 40 (w % 2 ^ nbits)

/-- The instruction the decoder reads from the `nbits`-bit word `w` of the opcode table; no command is longer than 40
bits (R48). -/
def decodeTableWord (nbits w : Nat) : Option Instr :=
  if nbits ≤ 40 then
    match decode (tableWord nbits w) with
    | .ok i    => some i
    | .error _ => none
  else none

end Sys2Proof
end

