-- ==== Sys2Proof/Machine/State.lean ====
section
/-! DEFINITION. The state of the core (10_state.md R14 to R33): registers, flags, the fault register, the ports, the
static parameters (which nothing writes), and two fields of the model's own (`responses`, `deriveCount`). -/

namespace Sys2Proof.Machine

/-- The causes of a fault, the values 1 to 6 of FCODE (60_exceptions.md R106). A fault of the core is not a stop of
the model: it is the entry of R113, a next state. -/
inductive FaultCode where
  /-- Reserved command word (R107). -/
  | errIllegal
  /-- Calibration gives a zero or negative effective clock (R108). -/
  | errCalZero
  /-- Calibration gives an effective clock of 2^32 or more (R109). -/
  | errCalRange
  /-- Derive step with no effective clock established (R110). -/
  | errNoClock
  /-- Shift-scaled reciprocal does not fit RECIP (R112). -/
  | errRecipRange
  /-- Tuning-word accumulator reaches 2^64 (R111). -/
  | errOverflow
deriving DecidableEq, Repr

/-- The status of a response (R106): success, a fault, or the refusal `ERR_FAULTED`. -/
inductive Status where
  | ok
  | errIllegal
  | errCalZero
  | errCalRange
  | errNoClock
  | errRecipRange
  | errOverflow
  /-- A fault is already recorded (R114). -/
  | errFaulted
deriving DecidableEq, Repr

/-- A response (R29). -/
structure Response where
  status : Status
  val    : ValWord
  sh     : ShiftWord
deriving DecidableEq, Repr

/-- A hand-off on the TX port: the tuning word and the control byte (R30, R100). -/
structure Handoff where
  tw   : TuningWord
  ctrl : CtrlByte
deriving DecidableEq, Repr

/-- One input of a run (70_reset_and_hazards.md R137): a command word or the reset event. -/
inductive Input where
  | command (w : CmdWord)
  | reset
deriving DecidableEq, Repr

/-- The state of the core, its ports and its parameters. -/
structure State where
  /-- The static parameters (R25): inputs that stay as they are; no operation writes this field (log entry 1). -/
  params      : Params
  /-- ECLK, EffectiveClock (R15). -/
  eclk        : Clock
  /-- RECIP, Reciprocal (R16); its width is `params.recipWidth` (log entry 6). -/
  recip       : RecipWord
  /-- SHIFT (R17). -/
  shift       : ShiftWord
  /-- FRESH: RECIP and SHIFT were derived from the value ECLK now holds (R21). -/
  fresh       : Bool
  /-- CLKV: a `CAL` has succeeded since reset (R22). -/
  clkv        : Bool
  /-- FCODE (R24): `none` is the value 0, no fault recorded since reset; `some c` the code of the first one
  (log entry 7). -/
  fcode       : Option FaultCode
  /-- The command port and `rst`: what the host has still to present, head first (R20, R27, R28; log entry 3). -/
  input       : List Input
  /-- The response port: the response to the latest command since reset, if there was one (R29, R33). -/
  response    : Option Response
  /-- Every response of the run so far, oldest first (R137). The model's own record, log entry 4. -/
  responses   : List Response
  /-- The TX port: every hand-off of the run so far, oldest first (R30, R33; log entry 4). -/
  handoffs    : List Handoff
  /-- The ghost counter of R32: how many derive steps were committed. The model's own, log entry 10. -/
  deriveCount : Nat
deriving DecidableEq, Repr

/-- Why the model stops with a fault. No instruction's meaning raises one. -/
inductive Fault where
  /-- Raised by `step` when the static parameters break the constraints of R8 ("a precondition of the model", R25):
  such a machine is not this hardware. Safe: the model stops, and parameters never change (log entry 5). -/
  | badParameters
deriving DecidableEq, Repr

/-- Why an instruction has no meaning in the model. -/
inductive Refusal where
  /-- Raised by an arm of `exec` that has no meaning yet; no arm of this model is one. Safe: the model stops. -/
  | notModelled (mnemonic : String)
deriving DecidableEq, Repr

/-- What RECIP holds after reset: an unspecified value of the register's width (R16, R33; log entry 2). -/
def State.resetRecip (p : Params) : RecipWord :=
  BitVec.ofNat 65 (Config.resetRecip.toNat % 2 ^ p.recipWidth)

/-- What SHIFT holds after reset: an unspecified value in `SHIFT_SCALED` mode, 0 in `MAX_PRECISION` mode (R17, R33;
log entries 2 and 8). -/
def State.resetShift (p : Params) : ShiftWord :=
  match p.mode with
  | .shiftScaled  => Config.resetShift
  | .maxPrecision => 0#6

/-- The core at power-on with the parameters `p` (R33, R123): flags and fault register 0, the data registers
unspecified, nothing responded, nothing handed off, nothing presented. -/
def State.powerOn (p : Params) : State where
  params      := p
  eclk        := Config.resetEclk
  recip       := State.resetRecip p
  shift       := State.resetShift p
  fresh       := false
  clkv        := false
  fcode       := none
  input       := []
  response    := none
  responses   := []
  handoffs    := []
  deriveCount := 0

/-- The machine right after reset, with the parameters of log entry 1. Every statement about the machine is made for
all parameters, not for these. -/
def State.reset : State := State.powerOn Config.resetParams

end Sys2Proof.Machine
end

