-- ==== Sys2Proof/Machine/Operands.lean ====
section
/-! DEFINITION. The operands of the commands and of the shared procedures (30_encoding.md R50): what each reads from
its operand, the registers and the parameters, as an integer, and how an integer result is narrowed to a port field. -/

namespace Sys2Proof.Machine

/-- `k = GIGA - ppb`, the signed operand of `CAL` as its rule uses it (R63). -/
def calFactor (ppb : Int) : Int := (Config.giga : Int) - ppb

/-- The operand of `SENDRAW` as the word it hands off (R50, R98). -/
def rawWord (word : Nat) : TuningWord := BitVec.ofNat 32 word

/-- Parameter NOMINAL, hertz (R25). -/
def State.nominal (s : State) : Nat := s.params.nominal.toNat

/-- Register ECLK, hertz: `c = ECLK` of the derive step (R75). -/
def State.clock (s : State) : Nat := s.eclk.toNat

/-- An integer on the `val` field of the response port (R29). -/
def valOf (v : Nat) : ValWord := BitVec.ofNat 65 v

/-- An integer on the `sh` field of the response port, and in register SHIFT (R17, R29). -/
def shOf (v : Nat) : ShiftWord := BitVec.ofNat 6 v

end Sys2Proof.Machine
end

