-- ==== Sys2Proof/Machine/Flags.lean ====
section
/-! DEFINITION. The flags FRESH and CLKV and the fault register FCODE (10_state.md R21 to R24): who sets, clears and
reads each. There are no arithmetic condition codes (R23). -/

namespace Sys2Proof.Machine

/-- The value a fault writes to FCODE (60_exceptions.md R106). -/
def FaultCode.code : FaultCode → BitVec 4
  | .errIllegal    => 1#4
  | .errCalZero    => 2#4
  | .errCalRange   => 3#4
  | .errNoClock    => 4#4
  | .errRecipRange => 5#4
  | .errOverflow   => 6#4

/-- The value of a response's `status` field (R106). -/
def Status.code : Status → BitVec 4
  | .ok            => 0#4
  | .errIllegal    => 1#4
  | .errCalZero    => 2#4
  | .errCalRange   => 3#4
  | .errNoClock    => 4#4
  | .errRecipRange => 5#4
  | .errOverflow   => 6#4
  | .errFaulted    => 7#4

/-- The status a fault answers with (R106, R113). -/
def FaultCode.status : FaultCode → Status
  | .errIllegal    => .errIllegal
  | .errCalZero    => .errCalZero
  | .errCalRange   => .errCalRange
  | .errNoClock    => .errNoClock
  | .errRecipRange => .errRecipRange
  | .errOverflow   => .errOverflow

/-- The four bits FCODE shows on the status port: 0 while no fault is recorded (R24, R31). -/
def State.fcodePort (s : State) : BitVec 4 :=
  match s.fcode with
  | none   => 0#4
  | some c => c.code

/-- The halted condition `FCODE != 0` (R114), which is also the level output `fault` (R31). -/
def State.halted (s : State) : Bool := s.fcode.isSome

/-- `FRESH <- 0`: RECIP and SHIFT are stale; they keep their old values (R21, R66). -/
def State.markStale (s : State) : State := { s with fresh := false }

/-- `FRESH <- 1` (R21). -/
def State.markFresh (s : State) : State := { s with fresh := true }

/-- `CLKV <- 1` (R22). -/
def State.markClockValid (s : State) : State := { s with clkv := true }

/-- `FCODE <- CODE` (R113). -/
def State.recordFault (c : FaultCode) (s : State) : State := { s with fcode := some c }

end Sys2Proof.Machine
end

