-- ==== Sys2Proof/Machine/Ops.lean ====
section
/-! DEFINITION. The named operations every command is made of: responding (10_state.md R29), taking a fault and
refusing (60_exceptions.md R113, R114), the way out of a fault, which is reset (R117, 70_reset_and_hazards.md R123),
handing a frame off (43_transmit.md R100), and the status ports (R31). Each is one atomic change of the state
(20_memory.md R41). -/

namespace Sys2Proof.Machine

/-- The outcome of a command or of a step. -/
abbrev Result := Host.Outcome State Fault Refusal

/-- `respond(status, val, sh)`: place a response on the response port (R11, R29). -/
def State.respond (status : Status) (val : ValWord) (sh : ShiftWord) (s : State) : State :=
  { s with
    response  := some ⟨status, val, sh⟩
    responses := s.responses ++ [⟨status, val, sh⟩] }

/-- Taking a fault (R113): no register but FCODE is written, nothing is handed off, the response carries the code.
There is no saved program counter, no vector and no mode change. -/
def State.takeFault (c : FaultCode) (s : State) : State :=
  (s.recordFault c).respond c.status 0 0

/-- The refusal of a command by a halted core (R114): `respond(ERR_FAULTED, 0, 0)` and nothing else. -/
def State.refuse (s : State) : State := s.respond .errFaulted 0 0

/-- The first test of every command (R115, priority 1): a halted core refuses, any other does `run`. -/
def State.unlessHalted (s : State) (run : State) : State :=
  if s.halted then s.refuse else run

/-- The reset event (R123), the only way out of the halted condition (R117): the flags and FCODE are cleared, the data
registers cease to hold a specified value, no response is pending, nothing is handed off. Parameters and the records of
the run stay (R33, R124). -/
def State.takeReset (s : State) : State :=
  { s with
    eclk     := Config.resetEclk
    recip    := State.resetRecip s.params
    shift    := State.resetShift s.params
    fresh    := false
    clkv     := false
    fcode    := none
    response := none }

/-- `transmit(tw, CTRL_BYTE)`: append one hand-off to the TX port's sequence (R100); the control byte is the parameter,
unchanged (R101). It always succeeds. -/
def State.transmit (tw : TuningWord) (s : State) : State :=
  { s with handoffs := s.handoffs ++ [⟨tw, s.params.ctrlByte⟩] }

/-- The read-only view of the registers (R31). -/
structure StatusPorts where
  eclk  : Clock
  recip : RecipWord
  shift : ShiftWord
  fresh : Bool
  clkv  : Bool
  fcode : BitVec 4
  fault : Bool
deriving DecidableEq, Repr

/-- What the SHIFT port shows: the register in `SHIFT_SCALED` mode, 0 in `MAX_PRECISION` mode (R17). -/
def State.shiftPort (s : State) : ShiftWord :=
  match s.params.mode with
  | .shiftScaled  => s.shift
  | .maxPrecision => 0#6

/-- The status ports; reading them changes nothing (R31, R42). -/
def State.statusPorts (s : State) : StatusPorts where
  eclk  := s.eclk
  recip := s.recip
  shift := s.shiftPort
  fresh := s.fresh
  clkv  := s.clkv
  fcode := s.fcodePort
  fault := s.halted

end Sys2Proof.Machine
end

