-- ==== Sys2Proof/Machine/Calibration.lean ====
section
/-! DEFINITION. The calibration family (40_calibration.md R61 to R68): `eff_clock` and the command `CAL`. -/

namespace Sys2Proof.Machine

/-- `eff_clock(nominal, ppb)` (R62), meant where `GIGA - ppb > 0`: multiply first, over the whole product, then divide,
rounding down. -/
def effClock (nominal : Nat) (ppb : Int) : Nat :=
  nominal * (calFactor ppb).toNat / Config.giga

/-- The tests of `CAL` in their order (R63, R115): the clock to establish, or the fault that rejects the operand. -/
def calibrate (nominal : Nat) (ppb : Int) : Except FaultCode Nat :=
  if calFactor ppb ≤ 0 then .error .errCalZero
  else if effClock nominal ppb = 0 then .error .errCalZero
  else if 2 ^ Config.eclkW ≤ effClock nominal ppb then .error .errCalRange
  else .ok (effClock nominal ppb)

/-- `atomically { ECLK <- e ; CLKV <- 1 ; FRESH <- 0 }` (R63). RECIP and SHIFT keep their old values (R66). -/
def State.establishClock (e : Nat) (s : State) : State :=
  { s.markClockValid.markStale with eclk := BitVec.ofNat 32 e }

/-- `CAL ppb` (R63). -/
def execCal (ppb : Int) (s : State) : Result :=
  .next <| s.unlessHalted <|
    match calibrate s.nominal ppb with
    | .error c => s.takeFault c
    | .ok e    => (s.establishClock e).respond .ok (valOf e) 0

end Sys2Proof.Machine
end

