-- ==== Sys2Proof/Machine/Reciprocal.lean ====
section
/-! DEFINITION. The reciprocal family (41_reciprocal.md R69 to R80): `shift_of`, `recip_of`, the derive step shared with
`F2W` and `SETF`, and the command `DERIVE`. -/

namespace Sys2Proof.Machine

/-- `bitlen(v)`, the number of bits of v >= 1 (00_scope.md R11). -/
def bitlen (v : Nat) : Nat := Nat.log2 v + 1

/-- `shift_of(c)`, for 1 <= c < 2^33 the unique s with `2^32 <= c << s < 2^33`, which is `33 - bitlen(c)` (R70,
90_conflicts.md C1). -/
def shiftOf (c : Nat) : Nat := 33 - bitlen c

/-- `recip_of(c, mode)`: `2^(32 + shift_of(c)) / c` in `SHIFT_SCALED` mode (R72), `(2^64 - 1) / c` in `MAX_PRECISION`
mode (R74). -/
def recipOf (c : Nat) : Mode → Nat
  | .shiftScaled  => 2 ^ (32 + shiftOf c) / c
  | .maxPrecision => (2 ^ 64 - 1) / c

/-- The shift of the pair the derive step returns: `shift_of(c)`, or 0 where there is "no shift tracking" (R75). -/
def pairShift (c : Nat) : Mode → Nat
  | .shiftScaled  => shiftOf c
  | .maxPrecision => 0

/-- A reciprocal and its shift, "co-owned" (R17, R77). -/
structure RecipPair where
  recip : Nat
  shift : Nat
deriving DecidableEq, Repr

/-- The pair of a clock. -/
def pairOf (c : Nat) (mode : Mode) : RecipPair := ⟨recipOf c mode, pairShift c mode⟩

/-- Whether a quotient fits register RECIP: tested in `SHIFT_SCALED` mode, always so in `MAX_PRECISION` mode (R73,
R74). -/
def recipFits (p : Params) (q : Nat) : Bool :=
  match p.mode with
  | .shiftScaled  => decide (q < 2 ^ p.recipW)
  | .maxPrecision => true

/-- `derive_step()`: the pair it would write, or the fault; it writes nothing itself (R75). -/
def State.deriveStep (s : State) : Except FaultCode RecipPair :=
  if s.clkv = false then .error .errNoClock
  else if recipFits s.params (recipOf s.clock s.params.mode) then .ok (pairOf s.clock s.params.mode)
  else .error .errRecipRange

/-- `atomically { RECIP <- q ; if MODE == SHIFT_SCALED then SHIFT <- s ; FRESH <- 1 }` (R75, R90, R97), counted by the
ghost counter (R32). -/
def State.commitPair (p : RecipPair) (s : State) : State :=
  { s.markFresh with
    recip       := BitVec.ofNat 65 p.recip
    shift       := match s.params.mode with
                   | .shiftScaled  => shOf p.shift
                   | .maxPrecision => s.shift
    deriveCount := s.deriveCount + 1 }

/-- `DERIVE` (R75): unconditional, whatever FRESH is. -/
def execDerive (s : State) : Result :=
  .next <| s.unlessHalted <|
    match s.deriveStep with
    | .error c => s.takeFault c
    | .ok p    => (s.commitPair p).respond .ok (valOf p.recip) (shOf p.shift)

end Sys2Proof.Machine
end

