-- ==== Sys2Proof/Machine/TuningWord.lean ====
section
/-! DEFINITION. The tuning-word family (42_tuning_word.md R83 to R94): `tuning_word`, derive-if-stale, and the command
`F2W`. -/

namespace Sys2Proof.Machine

/-- The accumulator `acc`: the product and the rounding addend, exact (R84, R86). The bias `r / 16` is a fixed constant
of the hardware (R85). -/
def accumulator (mode : Mode) (f r : Nat) : Nat :=
  match mode with
  | .shiftScaled  => f * r + r / Config.biasDiv
  | .maxPrecision => f * r + Config.half

/-- How far the accumulator is shifted right: by the pair's shift (R84), or by 32 (R86). -/
def accShift (mode : Mode) (sh : Nat) : Nat :=
  match mode with
  | .shiftScaled  => sh
  | .maxPrecision => 32

/-- `tuning_word(f, r, s, mode)` (R84, R86): 0 for f = 0 without evaluating the formula (R87), a fault where the full
sum reaches 2^64 (R88), otherwise the low 32 bits of the shifted sum (R89). -/
def tuningWord (mode : Mode) (f r sh : Nat) : Except FaultCode TuningWord :=
  if f = 0 then .ok 0
  else if 2 ^ Config.accW ≤ accumulator mode f r then .error .errOverflow
  else .ok (BitVec.ofNat 32 (accumulator mode f r >>> accShift mode sh))

/-- `fresh_pair()` (R91): the registers while FRESH = 1; otherwise the pair of the derive step, with `true` for
"derived". -/
def State.freshPair (s : State) : Except FaultCode (RecipPair × Bool) :=
  if s.fresh then .ok (⟨s.recip.toNat, s.shift.toNat⟩, false)
  else
    match s.deriveStep with
    | .error c => .error c
    | .ok p    => .ok (p, true)

/-- The part `F2W` and `SETF` share (R90, R97): obtain the pair, compute the word, commit a pair that was derived, then
`finish` with the word. A fault on the way writes nothing but FCODE, so a derived pair is discarded (R113). -/
def State.requestWord (f : Nat) (finish : TuningWord → State → State) (s : State) : State :=
  match s.freshPair with
  | .error c => s.takeFault c
  | .ok (p, derived) =>
    match tuningWord s.params.mode f p.recip p.shift with
    | .error c => s.takeFault c
    | .ok tw   => finish tw (if derived then s.commitPair p else s)

/-- `F2W f` (R90): the word is the response; nothing is handed off. -/
def execF2w (f : Nat) (s : State) : Result :=
  .next <| s.unlessHalted <|
    s.requestWord f fun tw t => t.respond .ok (valOf tw.toNat) 0

end Sys2Proof.Machine
end

