-- ==== Sys2Proof/Machine/Transmit.lean ====
section
/-! DEFINITION. The transmit family (43_transmit.md R96 to R104): the frame (20_memory.md R38) and the commands `SETF` and
`SENDRAW`. -/

namespace Sys2Proof.Machine

/-- `frame(tw, ctrl)` = `ctrl ∥ tw` (R38). -/
def frame (tw : TuningWord) (ctrl : CtrlByte) : Frame := ctrl ++ tw

/-- `byte[i] = frame[8*i+7 : 8*i]` (R38). -/
def frameByte (fr : Frame) (i : Nat) : BitVec 8 := fr.extractLsb' (8 * i) 8

/-- The five bytes in sending order, least significant first, the control byte last (R38). -/
def frameBytes (fr : Frame) : List (BitVec 8) := [0, 1, 2, 3, 4].map (frameByte fr)

/-- A hand-off as the 40-bit value given to the transmission collaborator (R30, R100). -/
def Handoff.frame (h : Handoff) : Frame := Machine.frame h.tw h.ctrl

/-- `SETF f` (R97): as `F2W`, and the word is handed off with the control byte. -/
def execSetf (f : Nat) (s : State) : Result :=
  .next <| s.unlessHalted <|
    s.requestWord f fun tw t => (t.transmit tw).respond .ok (valOf tw.toNat) 0

/-- `SENDRAW word` (R98): hand the operand off; no register is read or written but FCODE's test. -/
def execSendraw (word : Nat) (s : State) : Result :=
  .next <| s.unlessHalted <|
    (s.transmit (rawWord word)).respond .ok (valOf (rawWord word).toNat) 0

end Sys2Proof.Machine
end

