-- ==== Sys2Proof/Machine/Dispatch.lean ====
section
/-! DEFINITION. One arm per command (30_encoding.md R52), each a direct call of its meaning. -/

namespace Sys2Proof.Machine

def exec (i : Instr) (s : State) : Host.Outcome State Fault Refusal :=
  match i with
  | .cal ppb => Sys2Proof.Machine.execCal ppb s
  | .derive => Sys2Proof.Machine.execDerive s
  | .f2w f => Sys2Proof.Machine.execF2w f s
  | .setf f => Sys2Proof.Machine.execSetf f s
  | .sendraw word => Sys2Proof.Machine.execSendraw word s

end Sys2Proof.Machine
end

