-- ==== Sys2Proof/Machine/Port.lean ====
section
/-! DEFINITION. What one step does with the head of the input stream (10_state.md R20, R27, R28): take a command word, or
take the reset event, or stay idle. -/

namespace Sys2Proof.Machine

/-- Take a command word (R115): a halted core refuses it before decoding; a word that decodes to `ILLEGAL` faults
(R53, R107); any other is the command it decodes to. -/
def takeCommand (w : CmdWord) (s : State) : Result :=
  if s.halted then .next s.refuse
  else
    match decode w with
    | .error _ => .next (s.takeFault .errIllegal)
    | .ok i    => exec i s

/-- Consume the head of the input stream (R20). With nothing presented "the core is idle and keeps all its state" (R122;
log entry 3). -/
def takeInput (s : State) : Result :=
  match s.input with
  | []                => .next s
  | .reset :: rest    => .next ({ s with input := rest } : State).takeReset
  | .command w :: rest => takeCommand w { s with input := rest }

/-- Present one more command word, ahead of what the host had to present. -/
def State.present (w : CmdWord) (s : State) : State := { s with input := .command w :: s.input }

end Sys2Proof.Machine
end

