-- ==== Sys2Proof/Machine/Step.lean ====
section
/-! DEFINITION. One step of a run (70_reset_and_hazards.md R137): one input consumed, one atomic change of the state. -/

namespace Sys2Proof.Machine

/-- One step. A core whose parameters break R8 is not this hardware and stops (R25; log entry 5). -/
def step (s : State) : Host.Outcome State Fault Refusal :=
  if s.params.wf then takeInput s else .fault .badParameters

/-- `s` with the `nbits`-bit command word `w` presented next on the command port: a program is loaded from outside the
core, as the list of what the host will present (R20; log entry 3). -/
def State.withFetchWord (s : State) (nbits w : Nat) : State := s.present (tableWord nbits w)

end Sys2Proof.Machine
end

