-- ==== Sys2Proof/Machine/Assembler.lean ====
section
/-! DEFINITION. The assembler syntax of 30_encoding.md R56 and the two pseudo-forms of R57, on lines of characters: one
command per line, a mnemonic and at most one operand, `;` to the end of the line a comment. An operand that a command
word cannot spell is refused, never truncated (R55). Details R56 leaves open, and the directive
`.word` of one listing of the spec, are log entry 12. -/

namespace Sys2Proof.Machine

/-- The part of a line before a comment. -/
def uncommented (line : List Char) : List Char := line.takeWhile (· != ';')

/-- A line cut at blanks, a comma being a token of its own; empty pieces are kept. -/
def pieces : List Char → List (List Char)
  | []      => [[]]
  | c :: cs =>
    if c == ' ' || c == '\t' then [] :: pieces cs
    else if c == ',' then [] :: [','] :: pieces cs
    else
      match pieces cs with
      | []      => [[c]]
      | t :: ts => (c :: t) :: ts

/-- The tokens of a line. -/
def tokens (line : List Char) : List (List Char) := (pieces (uncommented line)).filter (· != [])

/-- The value of a digit, for the bases 10 and 16. -/
def digitOf (base : Nat) (c : Char) : Option Nat :=
  let v := if '0'.toNat ≤ c.toNat ∧ c.toNat ≤ '9'.toNat then c.toNat - '0'.toNat
    else if 'a'.toNat ≤ c.toNat ∧ c.toNat ≤ 'f'.toNat then c.toNat - 'a'.toNat + 10
    else if 'A'.toNat ≤ c.toNat ∧ c.toNat ≤ 'F'.toNat then c.toNat - 'A'.toNat + 10
    else base
  if v < base then some v else none

/-- A number read digit by digit, most significant first; `acc` is the value so far. -/
def numberFrom (base acc : Nat) : List Char → Option Nat
  | []      => some acc
  | c :: cs =>
    match digitOf base c with
    | some d => numberFrom base (acc * base + d) cs
    | none   => none

/-- A number of at least one digit. -/
def numberOf (base : Nat) (cs : List Char) : Option Nat :=
  if cs == [] then none else numberFrom base 0 cs

/-- An unsigned operand, decimal or `0x` hexadecimal. -/
def unsignedOf : List Char → Option Nat
  | '0' :: 'x' :: cs => numberOf 16 cs
  | cs               => numberOf 10 cs

/-- A signed operand: as an unsigned one, or a minus sign and a decimal number. -/
def signedOf : List Char → Option Int
  | '-' :: cs => (numberOf 10 cs).map fun v => -(v : Int)
  | cs        => (unsignedOf cs).map fun v => (v : Int)

/-- The command a mnemonic and an operand spell; `.word`, which spells no command, is `wordDirective`. -/
def commandOf (mnemonic operand : List Char) : Option Instr :=
  if mnemonic == ['C', 'A', 'L'] then (signedOf operand).map .cal
  else if mnemonic == ['F', '2', 'W'] then (unsignedOf operand).map .f2w
  else if mnemonic == ['S', 'E', 'T', 'F'] then (unsignedOf operand).map .setf
  else if mnemonic == ['S', 'E', 'N', 'D', 'R', 'A', 'W'] then (unsignedOf operand).map .sendraw
  else none

/-- `INIT ppb, f`: the "calibration-then-frequency sequence" (R57, 70_reset_and_hazards.md R127). -/
def initSequence (ppb : Int) (f : Nat) : List Instr := [.cal ppb, .setf f]

/-- Commands as inputs of a run; none where one of them cannot be spelled. -/
def inputsOf : List Instr → Option (List Input)
  | []      => some []
  | i :: is =>
    match assemble i, inputsOf is with
    | some w, some rest => some (.command w :: rest)
    | _, _              => none

/-- `.word w`: the command word `w` as it is, for a word no mnemonic spells; none where `w` does not fit 40 bits. R56 and
R57 name no such form, but the listing of program P3 (95_test_vectors.md) writes one for a reserved word.
DESIGN CHOICE, log entry 12. -/
def wordDirective (w : Nat) : Option (List Input) :=
  if w < 2 ^ 40 then some [.command (BitVec.ofNat 40 w)] else none

/-- The inputs a line stands for. -/
def assembleTokens : List (List Char) → Option (List Input)
  | []  => some []
  | [m] =>
    if m == ['D', 'E', 'R', 'I', 'V', 'E'] then inputsOf [.derive]
    else if m == ['R', 'E', 'S', 'E', 'T'] then some [.reset]
    else none
  | [m, x] =>
    if m == ['.', 'w', 'o', 'r', 'd'] then (unsignedOf x).bind wordDirective
    else (commandOf m x).bind fun i => inputsOf [i]
  | [m, x, comma, y] =>
    if m == ['I', 'N', 'I', 'T'] && comma == [','] then
      match signedOf x, unsignedOf y with
      | some ppb, some f => inputsOf (initSequence ppb f)
      | _, _             => none
    else none
  | _ => none

/-- One line of a listing. -/
def assembleLine (line : List Char) : Option (List Input) := assembleTokens (tokens line)

/-- A listing, line by line: the input stream of a run (70_reset_and_hazards.md R137). -/
def assembleListing : List (List Char) → Option (List Input)
  | []         => some []
  | line :: ls =>
    match assembleLine line, assembleListing ls with
    | some xs, some ys => some (xs ++ ys)
    | _, _             => none

end Sys2Proof.Machine
end

