-- ==== Sys2Proof/Machine/Reference.lean ====
section
/-! DEFINITION. The two reference hardware algorithms of 41_reciprocal.md R78 and R79 (informative there): a normaliser
that finds the shift, and a restoring divider that finds the quotient. No command uses them; that they give the values
of R70, R72 and R74 is stated in the obligations. -/

namespace Sys2Proof.Machine

/-- `while v < 2^32 do v = v * 2 ; s = s + 1`, at most `fuel` times; the final `v` and `s` (R78). -/
def normaliseLoop : Nat → Nat → Nat → Nat × Nat
  | 0,        v, s => (v, s)
  | fuel + 1, v, s => if v < 2 ^ 32 then normaliseLoop fuel (v * 2) (s + 1) else (v, s)

/-- The normaliser of R78: "at most 32 iterations". -/
def normalise (c : Nat) : Nat × Nat := normaliseLoop 32 c 0

/-- One iteration of the restoring divider on the numerator's bit `b`: the new remainder and quotient (R79). -/
def divideBit (c : Nat) (b : Bool) (rem q : Nat) : Nat × Nat :=
  if c ≤ 2 * rem + b.toNat then (2 * rem + b.toNat - c, 2 * q + 1) else (2 * rem + b.toNat, 2 * q)

/-- The restoring divider on the bits `n - 1` down to 0 of `num`, from the remainder and quotient so far (R79). -/
def divideLoop (num c : Nat) : Nat → Nat → Nat → Nat × Nat
  | 0,     rem, q => (rem, q)
  | i + 1, rem, q => divideLoop num c i (divideBit c (num.testBit i) rem q).1 (divideBit c (num.testBit i) rem q).2

/-- The restoring divider of R79 for a numerator of `n` bits: the remainder and the quotient. -/
def restoringDivide (n num c : Nat) : Nat × Nat := divideLoop num c n 0 0

end Sys2Proof.Machine
end

