-- ==== Sys2Proof/Safety.lean ====
section
/-! DEFINITION. What the spec says of every state of a run and of a good run: the invariants of 10_state.md R19 and R35,
the part of a state that a rule can read (R33), and a successful run (70_reset_and_hazards.md R137). -/

namespace Sys2Proof.Machine

/-- The invariants that hold after reset and after every command (R19, R35), with the widths of R16 and the range of
R17. R35 (d) needs no clause: FCODE's type holds the values 0 to 6 and no other. R35 (e) is about steps. -/
structure State.Inv (s : State) : Prop where
  /-- The parameters are legal (R8). -/
  params_legal : s.params.wf = true
  /-- R35 (a): `CLKV = 0` implies `FRESH = 0`. -/
  fresh_clock  : s.fresh = true → s.clkv = true
  /-- R35 (b): `CLKV = 1` implies `1 <= ECLK`; the register's 32 bits bound it above. -/
  clock_pos    : s.clkv = true → 1 ≤ s.clock
  /-- R19: `FRESH = 1` implies `RECIP = recip_of(ECLK, MODE)`. -/
  fresh_recip  : s.fresh = true → s.recip.toNat = recipOf s.clock s.params.mode
  /-- R19: `FRESH = 1` in `SHIFT_SCALED` mode implies `SHIFT = shift_of(ECLK)`. -/
  fresh_shift  : s.fresh = true → s.params.mode = .shiftScaled → s.shift.toNat = shiftOf s.clock
  /-- R16, R19: RECIP holds a value of its own width. -/
  recip_width  : s.recip.toNat < 2 ^ s.params.recipWidth
  /-- R17: in `MAX_PRECISION` mode SHIFT is never written; it holds the 0 its port reads. -/
  shift_max    : s.params.mode = .maxPrecision → s.shift = 0#6

/-- The state with the values the spec calls unspecified or stale blotted out: ECLK while `CLKV = 0`, RECIP while
`FRESH = 0`, SHIFT while `FRESH = 0` and in `MAX_PRECISION` mode (R17, R33; 93_implementation_defined.md U8, U9). The 0s
here are blots, not values of the registers. -/
def State.specified (s : State) : State :=
  { s with
    eclk  := if s.clkv then s.eclk else 0#32
    recip := if s.fresh then s.recip else 0#65
    shift := if s.fresh && s.params.mode = .shiftScaled then s.shift else 0#6 }

/-- A run that has used up its inputs and ends with FCODE = 0: "A run that ends with `FCODE != 0` has faulted and is not a
successful run" (R137). R137 is silent on a run that faulted, was reset and ends with FCODE = 0; that such a run is
successful too is the model's choice. DESIGN CHOICE, log entry 14. -/
def State.successful (s : State) : Prop := s.input = [] ∧ s.fcode = none

/-- How many command words the host has still to present. -/
def commandsIn : List Input → Nat
  | []                => 0
  | .reset :: rest    => commandsIn rest
  | .command _ :: rest => commandsIn rest + 1

end Sys2Proof.Machine
end

