-- ==== Sys2Proof/Certificates/Slice0/Obligations.lean ====
section
/-! DEFINITION. The statements for the provers. The states they expect are written field by field in `Sys2Proof.Expected`,
without the operations of the model, so that a statement about a command does not rest on them. -/

open Sys2Proof Sys2Proof.Machine

namespace Sys2Proof.Expected

/-- `s` after a response and nothing else (10_state.md R29). -/
def responded (s : State) (status : Status) (val sh : Nat) : State :=
  { s with
    response  := some ⟨status, BitVec.ofNat 65 val, BitVec.ofNat 6 sh⟩
    responses := s.responses ++ [⟨status, BitVec.ofNat 65 val, BitVec.ofNat 6 sh⟩] }

/-- `s` after a fault (60_exceptions.md R113): FCODE written, the response `(CODE, 0, 0)`, nothing else. -/
def faulted (s : State) (c : FaultCode) (status : Status) : State :=
  responded { s with fcode := some c } status 0 0

/-- `s` after a refused command (R114): the response `(ERR_FAULTED, 0, 0)`, nothing else. -/
def refused (s : State) : State := responded s .errFaulted 0 0

/-- `s` with the pair (q, sh) committed (41_reciprocal.md R75): RECIP and FRESH written, SHIFT in `SHIFT_SCALED` mode
only, and the ghost counter of R32 advanced. -/
def withPair (s : State) (q sh : Nat) : State :=
  { s with
    recip       := BitVec.ofNat 65 q
    shift       := if s.params.mode = .shiftScaled then BitVec.ofNat 6 sh else s.shift
    fresh       := true
    deriveCount := s.deriveCount + 1 }

/-- `s` with one more hand-off on the TX port (43_transmit.md R100). -/
def handedOff (s : State) (tw : TuningWord) : State :=
  { s with handoffs := s.handoffs ++ [⟨tw, s.params.ctrlByte⟩] }

/-- A reserved command word, by its two fields (30_encoding.md R53). -/
def reserved (w : CmdWord) : Prop :=
  w.toNat / 2 ^ 32 = 0 ∨ 6 ≤ w.toNat / 2 ^ 32 ∨ (w.toNat / 2 ^ 32 = 2 ∧ w.toNat % 2 ^ 32 ≠ 0)

/-- The reciprocal of ECLK fits register RECIP (41_reciprocal.md R73, R74). -/
def pairFits (s : State) : Prop :=
  s.params.mode = .shiftScaled → recipOf s.clock s.params.mode < 2 ^ s.params.recipW

/-- What R90 and R97 say of a frequency request `i` for `f`, arm by arm, `done tw t` being the state `t` after the
command's own effect with the word `tw`. -/
def requestRule (i : Instr) (f : Nat) (done : TuningWord → State → State) : Prop :=
  ∀ s : State,
    (s.fcode ≠ none → exec i s = .next (refused s)) ∧
    (s.fcode = none → s.fresh = true →
      (∀ tw, tuningWord s.params.mode f s.recip.toNat s.shift.toNat = .ok tw → exec i s = .next (done tw s)) ∧
      (tuningWord s.params.mode f s.recip.toNat s.shift.toNat = .error .errOverflow →
        exec i s = .next (faulted s .errOverflow .errOverflow))) ∧
    (s.fcode = none → s.fresh = false → s.clkv = false → exec i s = .next (faulted s .errNoClock .errNoClock)) ∧
    (s.fcode = none → s.fresh = false → s.clkv = true → ¬ pairFits s →
      exec i s = .next (faulted s .errRecipRange .errRecipRange)) ∧
    (s.fcode = none → s.fresh = false → s.clkv = true → pairFits s →
      (∀ tw, tuningWord s.params.mode f (recipOf s.clock s.params.mode) (pairShift s.clock s.params.mode) = .ok tw →
        exec i s = .next (done tw (withPair s (recipOf s.clock s.params.mode) (shiftOf s.clock)))) ∧
      (tuningWord s.params.mode f (recipOf s.clock s.params.mode) (pairShift s.clock s.params.mode) =
          .error .errOverflow →
        exec i s = .next (faulted s .errOverflow .errOverflow)))

end Sys2Proof.Expected

open Sys2Proof.Expected

/-! ### Encoding (30_encoding.md) -/

/-- R51: the decoder, read off the two integers of the fields. -/
def Obligations.DecodeFollowsTheOpcodeCase : Prop :=
  ∀ w : CmdWord,
    (w.toNat / 2 ^ 32 = 1 → decode w = .ok (.cal (if w.toNat % 2 ^ 32 < 2 ^ 31 then ((w.toNat % 2 ^ 32 : Nat) : Int)
      else ((w.toNat % 2 ^ 32 : Nat) : Int) - 2 ^ 32))) ∧
    (w.toNat / 2 ^ 32 = 2 → w.toNat % 2 ^ 32 = 0 → decode w = .ok .derive) ∧
    (w.toNat / 2 ^ 32 = 3 → decode w = .ok (.f2w (w.toNat % 2 ^ 32))) ∧
    (w.toNat / 2 ^ 32 = 4 → decode w = .ok (.setf (w.toNat % 2 ^ 32))) ∧
    (w.toNat / 2 ^ 32 = 5 → decode w = .ok (.sendraw (w.toNat % 2 ^ 32))) ∧
    ((∃ e, decode w = .error e) ↔ reserved w)

/-- R50, R51, R56: decoding the word of a command whose operand can be spelled gives the command back. -/
def Obligations.DecodeOfEncodeIsTheCommand : Prop :=
  ∀ i : Instr, i.wf = true → decode (encode i) = .ok i

/-- R50, R51, R56: a word that decodes is the one word of the command it decodes to. -/
def Obligations.EncodeOfDecodeIsTheWord : Prop :=
  ∀ (w : CmdWord) (i : Instr), decode w = .ok i → i.wf = true ∧ encode i = w

/-- R52: a word `w` selects a row of the table when `(w AND mask) == match`, and is then that row's command. -/
def Obligations.TableRowSelectsItsCommand : Prop :=
  ∀ w : CmdWord,
    (w &&& 0xFF00000000#40 = 0x0100000000#40 → decode w = .ok (.cal (argField w).toInt)) ∧
    (w &&& 0xFFFFFFFFFF#40 = 0x0200000000#40 → decode w = .ok .derive) ∧
    (w &&& 0xFF00000000#40 = 0x0300000000#40 → decode w = .ok (.f2w (argField w).toNat)) ∧
    (w &&& 0xFF00000000#40 = 0x0400000000#40 → decode w = .ok (.setf (argField w).toNat)) ∧
    (w &&& 0xFF00000000#40 = 0x0500000000#40 → decode w = .ok (.sendraw (argField w).toNat))

/-- R55, R56: the assembler refuses exactly the operands that do not fit, and otherwise gives
`op * 2^32 + trunc_32(operand)`. -/
def Obligations.AssemblerRefusesRatherThanTruncates : Prop :=
  (∀ ppb : Int, (assemble (.cal ppb) = none ↔ ppb < -2 ^ 31 ∨ 2 ^ 31 ≤ ppb) ∧
    ∀ w, assemble (.cal ppb) = some w → (w.toNat : Int) = 1 * 2 ^ 32 + ppb % 2 ^ 32) ∧
  (∀ w, assemble .derive = some w ↔ w.toNat = 2 * 2 ^ 32) ∧
  (∀ f : Nat, (assemble (.f2w f) = none ↔ 2 ^ 32 ≤ f) ∧ ∀ w, assemble (.f2w f) = some w → w.toNat = 3 * 2 ^ 32 + f) ∧
  (∀ f : Nat, (assemble (.setf f) = none ↔ 2 ^ 32 ≤ f) ∧ ∀ w, assemble (.setf f) = some w → w.toNat = 4 * 2 ^ 32 + f) ∧
  (∀ v : Nat, (assemble (.sendraw v) = none ↔ 2 ^ 32 ≤ v) ∧
    ∀ w, assemble (.sendraw v) = some w → w.toNat = 5 * 2 ^ 32 + v)

/-- R49 to R51: words written out from the encoding decode to the commands they stand for. -/
def Obligations.WrittenOutWordsDecode : Prop :=
  decode 0x01FFFFFC18#40 = .ok (.cal (-1000)) ∧ decode 0x0200000000#40 = .ok .derive ∧
  decode 0x0300989680#40 = .ok (.f2w 10000000) ∧ decode 0x04055D4A80#40 = .ok (.setf 90000000) ∧
  decode 0x0580000000#40 = .ok (.sendraw 0x80000000) ∧ decode 0x0200000001#40 = .error (.deriveOperand 1#32) ∧
  decode 0x0000000000#40 = .error (.reservedOpcode 0#8)

/-- R57: `INIT ppb, f` stands for the words of `CAL ppb` and `SETF f`, in this order. -/
def Obligations.InitExpandsToCalThenSetf : Prop :=
  ∀ (ppb : Int) (f : Nat), -2 ^ 31 ≤ ppb → ppb < 2 ^ 31 → f < 2 ^ 32 →
    inputsOf (initSequence ppb f) = some [.command (encode (.cal ppb)), .command (encode (.setf f))]

/-! ### The step -/

/-- A step whose next input is a command word that decodes to `i` is `exec i`, with the word consumed. -/
def Obligations.StepRunsTheDecodedCommand : Prop :=
  ∀ (s : State) (w : CmdWord) (rest : List Input) (i : Instr),
    s.params.wf = true → s.input = .command w :: rest → decode w = .ok i →
    step s = exec i { s with input := rest }

/-- Every command that can be spelled runs as the very next step once its word is presented (the model's input stream,
log entry 3). -/
def Obligations.PresentedCommandRunsNext : Prop :=
  ∀ (s : State) (i : Instr), s.params.wf = true → i.wf = true →
    step (s.withFetchWord 40 (encode i).toNat) = exec i s

/-- R122: with no input "the core is idle and keeps all its state"; R137: the run has ended. The idle step is the
model's choice (log entry 3). -/
def Obligations.IdleCoreKeepsAllItsState : Prop :=
  ∀ s : State, s.params.wf = true → s.input = [] → step s = .next s

/-- The model stops exactly on parameters that break R8 (log entry 5); with legal ones every step has a next state. -/
def Obligations.StepStopsOnlyOnIllegalParameters : Prop :=
  ∀ s : State,
    (s.params.nominal.toNat = 0 ∨ s.params.recipW < 32 ∨ 65 < s.params.recipW → step s = .fault .badParameters) ∧
    (1 ≤ s.params.nominal.toNat → 32 ≤ s.params.recipW → s.params.recipW ≤ 65 → ∃ t, step s = .next t)

/-- R53, R107: a reserved word presented while FCODE = 0 faults with `ERR_ILLEGAL`. -/
def Obligations.ReservedWordFaults : Prop :=
  ∀ (s : State) (w : CmdWord) (rest : List Input),
    s.params.wf = true → s.fcode = none → s.input = .command w :: rest → reserved w →
    step s = .next (faulted { s with input := rest } .errIllegal .errIllegal)

/-- R114: while FCODE is not 0 every command word, legal or not, is refused, and so is every command; no step but a reset
clears the mark. -/
def Obligations.HaltedCoreRefusesEveryWord : Prop :=
  (∀ (s : State) (w : CmdWord) (rest : List Input) (c : FaultCode),
    s.params.wf = true → s.fcode = some c → s.input = .command w :: rest →
    step s = .next (refused { s with input := rest })) ∧
  (∀ (s : State) (i : Instr) (c : FaultCode), s.fcode = some c → exec i s = .next (refused s)) ∧
  (∀ (s t : State) (c : FaultCode), s.fcode = some c → (∀ rest, s.input ≠ .reset :: rest) → step s = .next t →
    t.fcode = some c ∧ t.handoffs = s.handoffs)

/-- R114: "the mark stays for the rest of the run, until reset"; R137: such a run is not successful. -/
def Obligations.FaultMarkStaysForTheRestOfTheRun : Prop :=
  ∀ (k : Nat) (s t : State) (c : FaultCode), s.fcode = some c → Input.reset ∉ s.input →
    core.run k s = .next t →
    t.fcode = some c ∧ t.eclk = s.eclk ∧ t.recip = s.recip ∧ t.shift = s.shift ∧ t.fresh = s.fresh ∧
      t.clkv = s.clkv ∧ t.handoffs = s.handoffs ∧ ¬ t.successful

/-- R123, R33, R124: the whole effect of the reset event, and that it leaves the registers as at power-on. That the data
registers then hold the same bodiless constants as at power-on is the model's choice (log entry 2). -/
def Obligations.ResetEventEffect : Prop :=
  ∀ (s : State) (rest : List Input), s.params.wf = true → s.input = .reset :: rest →
    ∃ t, step s = .next t ∧ t.fresh = false ∧ t.clkv = false ∧ t.fcode = none ∧ t.response = none ∧
      t.input = rest ∧ t.params = s.params ∧ t.responses = s.responses ∧ t.handoffs = s.handoffs ∧
      t.deriveCount = s.deriveCount ∧ t.statusPorts = (State.powerOn s.params).statusPorts

/-- R117: a step whose input is no reset event leaves a recorded fault as it is; one whose input is a reset event clears
FCODE together with FRESH and CLKV. -/
def Obligations.ResetIsTheOnlyWayOut : Prop :=
  ∀ s t : State, step s = .next t →
    ((∀ rest, s.input ≠ .reset :: rest) → ∀ c, s.fcode = some c → t.fcode = some c) ∧
    ((∃ rest, s.input = .reset :: rest) → t.fcode = none ∧ t.fresh = false ∧ t.clkv = false)

/-- R21, R22, R123: the events that set and clear the two flags. Only reset clears CLKV, only a successful `CAL` sets it;
only reset and a successful `CAL` clear FRESH, only a successful `DERIVE`, `F2W` or `SETF` sets it. -/
def Obligations.FlagsChangeOnlyWhereTheyAreWritten : Prop :=
  ∀ s t : State, step s = .next t →
    (s.clkv = true → t.clkv = false → ∃ rest, s.input = .reset :: rest) ∧
    (s.clkv = false → t.clkv = true → t.fcode = none ∧
      ∃ w rest ppb, s.input = .command w :: rest ∧ decode w = .ok (.cal ppb)) ∧
    (s.fresh = true → t.fresh = false → (∃ rest, s.input = .reset :: rest) ∨ t.fcode = none ∧
      ∃ w rest ppb, s.input = .command w :: rest ∧ decode w = .ok (.cal ppb)) ∧
    (s.fresh = false → t.fresh = true → t.fcode = none ∧
      ∃ w rest i, s.input = .command w :: rest ∧ decode w = .ok i ∧
        (i = .derive ∨ (∃ f, i = .f2w f) ∨ ∃ f, i = .setf f))

/-- R113: a step that records a fault is all-or-nothing, and raises the level `fault`. -/
def Obligations.FaultIsAllOrNothing : Prop :=
  ∀ (s t : State) (c : FaultCode), s.fcode = none → step s = .next t → t.fcode = some c →
    t = faulted { s with input := s.input.tail } c c.status ∧ t.statusPorts.fault = true

/-- R106: the code values, and that FCODE holds the code its response carried. -/
def Obligations.StatusCodeValues : Prop :=
  [Status.ok, .errIllegal, .errCalZero, .errCalRange, .errNoClock, .errRecipRange, .errOverflow,
      .errFaulted].map (fun st => st.code.toNat) = [0, 1, 2, 3, 4, 5, 6, 7] ∧
  (∀ c : FaultCode, c.code = c.status.code ∧ c.status ≠ .ok ∧ c.status ≠ .errFaulted)

/-- R31, R17, R24: what the status ports show; the level `fault`, and FCODE in 0..6. -/
def Obligations.StatusPortsShowTheRegisters : Prop :=
  ∀ s : State,
    s.statusPorts.eclk = s.eclk ∧ s.statusPorts.recip = s.recip ∧ s.statusPorts.fresh = s.fresh ∧
    s.statusPorts.clkv = s.clkv ∧ s.statusPorts.fcode.toNat ≤ 6 ∧
    (s.params.mode = .shiftScaled → s.statusPorts.shift = s.shift) ∧
    (s.params.mode = .maxPrecision → s.statusPorts.shift = 0#6) ∧
    (s.statusPorts.fault = true ↔ s.statusPorts.fcode ≠ 0#4) ∧
    (s.statusPorts.fcode = 0#4 ↔ s.fcode = none)

/-! ### Invariants -/

/-- R33, R35: the invariants hold after reset, whatever the parameters. -/
def Obligations.PowerOnMeetsTheInvariants : Prop :=
  (∀ p : Params, p.wf = true → (State.powerOn p).Inv) ∧ State.reset.Inv

/-- R19, R35: every step keeps the invariants. That SHIFT holds 0 in `MAX_PRECISION` mode, where its port reads 0, is the
model's reading (log entry 8). -/
def Obligations.StepKeepsTheInvariants : Prop :=
  ∀ s t : State, s.Inv → step s = .next t → t.Inv

/-- R77: outside reset, RECIP and SHIFT change only together, to the pair of the ECLK that stays, with FRESH set. -/
def Obligations.PairIsRefreshedTogether : Prop :=
  ∀ s t : State, step s = .next t → (∀ rest, s.input ≠ .reset :: rest) →
    t.recip ≠ s.recip ∨ t.shift ≠ s.shift →
    t.fresh = true ∧ t.eclk = s.eclk ∧ t.recip.toNat = recipOf s.clock s.params.mode ∧
      (s.params.mode = .shiftScaled → t.shift.toNat = shiftOf s.clock) ∧
      (s.params.mode = .maxPrecision → t.shift = s.shift)

/-- R33, R21, R15: no rule reads ECLK while CLKV = 0, nor RECIP and SHIFT while FRESH = 0: two states that differ only
there step to states that differ only there, with the same responses and hand-offs. -/
def Obligations.UnspecifiedValuesAreNeverRead : Prop :=
  ∀ s s' : State, s.params.wf = true → s.specified = s'.specified →
    ∃ t t', step s = .next t ∧ step s' = .next t' ∧ t.specified = t'.specified

/-- R25, R124: no step, reset included, changes a parameter. -/
def Obligations.ParametersNeverChange : Prop :=
  ∀ s t : State, step s = .next t → t.params = s.params

/-- R27, R29, R44: one response per command word, in order, on the port and in the record; none for reset. Its `val` fits
the field's own width max(64, RECIP_W), and on any status but `OK` its `val` and `sh` are 0. -/
def Obligations.OneResponsePerCommandWord : Prop :=
  ∀ s t : State, step s = .next t →
    t.responses.length + commandsIn t.input = s.responses.length + commandsIn s.input ∧
    (t.responses = s.responses ∨
      ∃ r, t.responses = s.responses ++ [r] ∧ t.response = some r ∧ r.val.toNat < 2 ^ s.params.valWidth ∧
        (r.status ≠ .ok → r.val = 0 ∧ r.sh = 0))

/-- R27, R105, R114: every command in every state runs to one next state and one response. -/
def Obligations.EveryCommandAnswersOnce : Prop :=
  ∀ (i : Instr) (s : State), ∃ t r, exec i s = .next t ∧ t.response = some r ∧ t.responses = s.responses ++ [r] ∧
    t.input = s.input ∧ t.params = s.params

/-- R30, R100: a command hands off at most one pair, only a successful `SETF` or `SENDRAW` does, and the pair is the
word it answers with and the control byte. -/
def Obligations.OnlySetfAndSendrawHandOff : Prop :=
  ∀ (i : Instr) (s t : State), exec i s = .next t →
    t.handoffs = s.handoffs ∨
    ((∃ f, i = .setf f) ∨ ∃ v, i = .sendraw v) ∧
      ∃ tw : TuningWord, t = { handedOff s tw with
        recip := t.recip, shift := t.shift, fresh := t.fresh, deriveCount := t.deriveCount,
        response := some ⟨.ok, BitVec.ofNat 65 tw.toNat, 0⟩,
        responses := s.responses ++ [⟨.ok, BitVec.ofNat 65 tw.toNat, 0⟩] }

/-- R101: the control byte of every frame ever handed off is the parameter. -/
def Obligations.EveryFrameCarriesTheControlByte : Prop :=
  ∀ s t : State, (∀ h ∈ s.handoffs, h.ctrl = s.params.ctrlByte) → step s = .next t →
    ∀ h ∈ t.handoffs, h.ctrl = t.params.ctrlByte

/-! ### Calibration (40_calibration.md) -/

/-- R63 with R62, R64, R65: `CAL ppb`, arm by arm, in every state. -/
def Obligations.CalFollowsItsRule : Prop :=
  ∀ (s : State) (ppb : Int),
    (s.fcode ≠ none → exec (.cal ppb) s = .next (refused s)) ∧
    (s.fcode = none → 1000000000 - ppb ≤ 0 →
      exec (.cal ppb) s = .next (faulted s .errCalZero .errCalZero)) ∧
    (s.fcode = none → 0 < 1000000000 - ppb →
      (s.params.nominal.toNat : Int) * (1000000000 - ppb) / 1000000000 = 0 →
      exec (.cal ppb) s = .next (faulted s .errCalZero .errCalZero)) ∧
    (s.fcode = none → 0 < 1000000000 - ppb →
      2 ^ 32 ≤ (s.params.nominal.toNat : Int) * (1000000000 - ppb) / 1000000000 →
      exec (.cal ppb) s = .next (faulted s .errCalRange .errCalRange)) ∧
    (∀ e : Nat, s.fcode = none → 0 < 1000000000 - ppb →
      (s.params.nominal.toNat : Int) * (1000000000 - ppb) / 1000000000 = e → 1 ≤ e → e < 2 ^ 32 →
      exec (.cal ppb) s =
        .next (responded { s with eclk := BitVec.ofNat 32 e, clkv := true, fresh := false } .ok e 0))

/-- R67: two successful `CAL`s with the same operand leave the same ECLK, CLKV = 1, FRESH = 0 and the same response,
whatever the states they start from; `CAL 0` establishes NOMINAL. -/
def Obligations.CalIsIdempotent : Prop :=
  (∀ (s s' t t' : State) (ppb : Int), s.params.nominal = s'.params.nominal →
    exec (.cal ppb) s = .next t → exec (.cal ppb) s' = .next t' → t.fcode = none → t'.fcode = none →
    t.eclk = t'.eclk ∧ t.clkv = true ∧ t'.clkv = true ∧ t.fresh = false ∧ t'.fresh = false ∧
      t.response = t'.response) ∧
  (∀ s : State, s.params.wf = true → s.fcode = none →
    ∃ t, exec (.cal 0) s = .next t ∧ t.eclk = s.params.nominal ∧ t.clkv = true ∧ t.fresh = false)

/-- R66: every successful `CAL` clears FRESH and never derives; RECIP and SHIFT keep their old values; a derive step
after a `CAL` that did not change ECLK writes the values they already held. -/
def Obligations.CalAlwaysInvalidates : Prop :=
  ∀ (s t : State) (ppb : Int), exec (.cal ppb) s = .next t → t.fcode = none →
    t.fresh = false ∧ t.recip = s.recip ∧ t.shift = s.shift ∧ t.deriveCount = s.deriveCount ∧
    (s.Inv → s.fresh = true → t.eclk = s.eclk →
      ∃ u, exec .derive t = .next u ∧ u.fcode = none ∧ u.recip = s.recip ∧ u.shift = s.shift)

/-- R18: the frame of `CAL`: RECIP, SHIFT, the TX port and the rest never change; ECLK, CLKV and FRESH change only when
it succeeds. -/
def Obligations.CalFrame : Prop :=
  ∀ (s t : State) (ppb : Int), exec (.cal ppb) s = .next t →
    t.recip = s.recip ∧ t.shift = s.shift ∧ t.handoffs = s.handoffs ∧ t.params = s.params ∧ t.input = s.input ∧
    t.deriveCount = s.deriveCount ∧
    (t.fcode = none ∨ t.eclk = s.eclk ∧ t.clkv = s.clkv ∧ t.fresh = s.fresh)

/-- R68: the widths of the calibration: an unsigned 64-bit product, a quotient below 2^34. -/
def Obligations.CalibrationFitsItsWidths : Prop :=
  ∀ (nominal : Nat) (ppb : Int), nominal < 2 ^ 32 → -2 ^ 31 ≤ ppb → 0 < 1000000000 - ppb →
    nominal * (calFactor ppb).toNat < 2 ^ 64 ∧ effClock nominal ppb < 2 ^ 34

/-! ### Reciprocal (41_reciprocal.md) -/

/-- R70: `shift_of(c)` puts `c << s` in `[2^32, 2^33)`, is the only shift that does, and is `32 - floor(log2(c))`. -/
def Obligations.ShiftOfIsTheNormalisingShift : Prop :=
  ∀ c : Nat, 1 ≤ c → c < 2 ^ 33 →
    2 ^ 32 ≤ c * 2 ^ shiftOf c ∧ c * 2 ^ shiftOf c < 2 ^ 33 ∧
    (∀ sh : Nat, 2 ^ 32 ≤ c * 2 ^ sh → c * 2 ^ sh < 2 ^ 33 → sh = shiftOf c) ∧
    ∀ n : Nat, 2 ^ n ≤ c → c < 2 ^ (n + 1) → shiftOf c = 32 - n

/-- R71: the range of the shift, its ends, and that it does not increase with the clock. -/
def Obligations.ShiftOfRange : Prop :=
  (∀ c : Nat, 1 ≤ c → c < 2 ^ 33 → shiftOf c ≤ 32 ∧ (shiftOf c = 32 ↔ c = 1) ∧
    (shiftOf c = 1 ↔ 2 ^ 31 ≤ c ∧ c < 2 ^ 32) ∧ (shiftOf c = 0 ↔ 2 ^ 32 ≤ c)) ∧
  (∀ c d : Nat, 1 ≤ c → c ≤ d → d < 2 ^ 33 → shiftOf d ≤ shiftOf c)

/-- R73: the span of the shift-scaled reciprocal for the clocks ECLK can hold (whose shift is at least 1), and which of
them fit a 32-bit RECIP; all fit a 65-bit one. -/
def Obligations.ShiftScaledReciprocalSpan : Prop :=
  ∀ c : Nat, 1 ≤ c → c < 2 ^ 32 →
    2 ^ (2 * shiftOf c - 1) ≤ recipOf c .shiftScaled ∧ recipOf c .shiftScaled ≤ 2 ^ (2 * shiftOf c) ∧
    (recipOf c .shiftScaled = 2 ^ (2 * shiftOf c) ↔ c = 2 ^ (32 - shiftOf c)) ∧
    (recipOf c .shiftScaled < 2 ^ 32 ↔ 65537 ≤ c) ∧ recipOf c .shiftScaled < 2 ^ 65

/-- R74: the maximum-precision reciprocal fits 64 bits, and a 32-bit clock gives at least 2^32 + 1. -/
def Obligations.MaxPrecisionReciprocalSpan : Prop :=
  (∀ c : Nat, 1 ≤ c → recipOf c .maxPrecision = (2 ^ 64 - 1) / c ∧ recipOf c .maxPrecision ≤ 2 ^ 64 - 1) ∧
  (∀ c : Nat, 1 ≤ c → c ≤ 2 ^ 32 - 1 → 2 ^ 32 + 1 ≤ recipOf c .maxPrecision) ∧
  recipOf 180000000 .maxPrecision = 102481911520

/-- R75 with R70, R72, R74: `DERIVE`, arm by arm; the shift is the one of the interval, not a function of the model. -/
def Obligations.DeriveFollowsItsRule : Prop :=
  ∀ s : State,
    (s.fcode ≠ none → exec .derive s = .next (refused s)) ∧
    (s.fcode = none → s.clkv = false → exec .derive s = .next (faulted s .errNoClock .errNoClock)) ∧
    (∀ sh : Nat, s.fcode = none → s.clkv = true → s.params.mode = .shiftScaled →
      2 ^ 32 ≤ s.eclk.toNat * 2 ^ sh → s.eclk.toNat * 2 ^ sh < 2 ^ 33 →
      (2 ^ s.params.recipW ≤ 2 ^ (32 + sh) / s.eclk.toNat →
        exec .derive s = .next (faulted s .errRecipRange .errRecipRange)) ∧
      (2 ^ (32 + sh) / s.eclk.toNat < 2 ^ s.params.recipW →
        exec .derive s = .next (responded (withPair s (2 ^ (32 + sh) / s.eclk.toNat) sh) .ok
          (2 ^ (32 + sh) / s.eclk.toNat) sh))) ∧
    (s.fcode = none → s.clkv = true → s.params.mode = .maxPrecision → 1 ≤ s.eclk.toNat →
      exec .derive s = .next (responded (withPair s ((2 ^ 64 - 1) / s.eclk.toNat) 0) .ok
        ((2 ^ 64 - 1) / s.eclk.toNat) 0))

/-- R112: when a command that runs the derive step (`DERIVE`; `F2W` and `SETF` on a stale pair) faults with
`ERR_RECIP_RANGE`: with `RECIP_W = 32` exactly for ECLK <= 65,536, never in `MAX_PRECISION` mode, never with
`RECIP_W = 65`. -/
def Obligations.RecipRangeFaultsExactlyOnSlowClocks : Prop :=
  ∀ (s t : State) (i : Instr), s.Inv → s.fcode = none → s.clkv = true →
    (i = .derive ∨ s.fresh = false ∧ ((∃ f, i = .f2w f) ∨ ∃ f, i = .setf f)) → exec i s = .next t →
    (s.params.mode = .maxPrecision → t.fcode ≠ some .errRecipRange) ∧
    (s.params.recipW = 65 → t.fcode ≠ some .errRecipRange) ∧
    (s.params.mode = .shiftScaled →
      (t.fcode = some .errRecipRange ↔ 2 ^ s.params.recipW ≤ 2 ^ (32 + shiftOf s.clock) / s.clock)) ∧
    (s.params.mode = .shiftScaled → s.params.recipW = 32 →
      (t.fcode = some .errRecipRange ↔ s.clock ≤ 65536))

/-- R76: the pair depends on ECLK, MODE and RECIP_W and on nothing else: two states that agree on these (and derive)
derive the same pair; deriving twice writes the same pair. -/
def Obligations.DeriveIsPure : Prop :=
  (∀ s s' t t' : State, s.eclk = s'.eclk → s.params.mode = s'.params.mode → s.params.recipW = s'.params.recipW →
    exec .derive s = .next t → exec .derive s' = .next t' → t.fcode = none → t'.fcode = none →
    t.recip = t'.recip ∧ (s.params.mode = .shiftScaled → t.shift = t'.shift) ∧ t.response = t'.response) ∧
  (∀ s t u : State, exec .derive s = .next t → t.fcode = none → exec .derive t = .next u →
    u.fcode = none ∧ u.recip = t.recip ∧ u.shift = t.shift ∧ u.fresh = true ∧ u.response = t.response)

/-- R18: the frame of `DERIVE`: ECLK, CLKV, the TX port and the rest never change; RECIP, SHIFT and FRESH change only
when it succeeds, SHIFT only in `SHIFT_SCALED` mode. -/
def Obligations.DeriveFrame : Prop :=
  ∀ s t : State, exec .derive s = .next t →
    t.eclk = s.eclk ∧ t.clkv = s.clkv ∧ t.handoffs = s.handoffs ∧ t.params = s.params ∧ t.input = s.input ∧
    (s.params.mode = .maxPrecision → t.shift = s.shift) ∧
    (t.fcode = none ∨ t.recip = s.recip ∧ t.shift = s.shift ∧ t.fresh = s.fresh ∧ t.deriveCount = s.deriveCount)

/-- R78: the normaliser's loop ends with `v = c << s` in `[2^32, 2^33)` and `s = shift_of(c)`. -/
def Obligations.NormaliserFindsTheShift : Prop :=
  ∀ c : Nat, 1 ≤ c → c < 2 ^ 32 → normalise c = (c * 2 ^ shiftOf c, shiftOf c)

/-- R79: the restoring divider gives the exact truncated quotient and the remainder, for every numerator of `n` bits,
and so both reciprocals of a 32-bit clock. -/
def Obligations.RestoringDividerFindsTheQuotient : Prop :=
  (∀ n num c : Nat, 1 ≤ c → num < 2 ^ n → restoringDivide n num c = (num % c, num / c)) ∧
  (∀ c : Nat, 1 ≤ c → c < 2 ^ 32 →
    (restoringDivide (33 + shiftOf c) (2 ^ (32 + shiftOf c)) c).2 = recipOf c .shiftScaled ∧
    (restoringDivide 64 (2 ^ 64 - 1) c).2 = recipOf c .maxPrecision)

/-! ### Tuning word (42_tuning_word.md) -/

/-- R84, R86, R87, R88, R89: the function `tuning_word` in both modes. -/
def Obligations.TuningWordFormulas : Prop :=
  ∀ f r sh : Nat,
    (∀ mode, tuningWord mode 0 r sh = .ok 0#32) ∧
    (1 ≤ f → 2 ^ 64 ≤ f * r + r / 16 → tuningWord .shiftScaled f r sh = .error .errOverflow) ∧
    (1 ≤ f → f * r + r / 16 < 2 ^ 64 →
      ∃ tw, tuningWord .shiftScaled f r sh = .ok tw ∧ tw.toNat = (f * r + r / 16) / 2 ^ sh % 2 ^ 32) ∧
    (1 ≤ f → 2 ^ 64 ≤ f * r + 2 ^ 31 → tuningWord .maxPrecision f r sh = .error .errOverflow) ∧
    (1 ≤ f → f * r + 2 ^ 31 < 2 ^ 64 →
      ∃ tw, tuningWord .maxPrecision f r sh = .ok tw ∧ tw.toNat = (f * r + 2 ^ 31) / 2 ^ 32)

/-- R90, R91: `F2W f`, arm by arm. -/
def Obligations.F2wFollowsItsRule : Prop :=
  ∀ f : Nat, requestRule (.f2w f) f fun tw t => responded t .ok tw.toNat 0

/-- R87, R115: with a usable pair `F2W 0` answers 0 and `SETF 0` hands off 0, in both modes; but a request for 0 on a
stale core still needs a clock, and a reciprocal that fits. -/
def Obligations.ZeroFrequencyRequests : Prop :=
  ∀ s : State, s.fcode = none →
    (s.fresh = true → exec (.f2w 0) s = .next (responded s .ok 0 0) ∧
      exec (.setf 0) s = .next (responded (handedOff s 0#32) .ok 0 0)) ∧
    (s.fresh = false → s.clkv = false → exec (.f2w 0) s = .next (faulted s .errNoClock .errNoClock) ∧
      exec (.setf 0) s = .next (faulted s .errNoClock .errNoClock)) ∧
    (s.fresh = false → s.clkv = true → ¬ pairFits s →
      exec (.f2w 0) s = .next (faulted s .errRecipRange .errRecipRange) ∧
      exec (.setf 0) s = .next (faulted s .errRecipRange .errRecipRange))

/-- R92: in `SHIFT_SCALED` mode a core with `RECIP_W = 32` never overflows; and for every width and clock a frequency up
to half the clock never does. -/
def Obligations.ShiftScaledOverflowIsUnreachable : Prop :=
  (∀ (s t : State) (f : Nat), s.Inv → s.fcode = none → s.params.mode = .shiftScaled → s.params.recipW = 32 →
    f < 2 ^ 32 → exec (.f2w f) s = .next t ∨ exec (.setf f) s = .next t → t.fcode ≠ some .errOverflow) ∧
  (∀ c f : Nat, 1 ≤ c → c < 2 ^ 32 → f ≤ c / 2 →
    tuningWord .shiftScaled f (recipOf c .shiftScaled) (shiftOf c) ≠ .error .errOverflow)

/-- R93: in `MAX_PRECISION` mode the legal frequencies are those below the clock, and the clock itself exactly when
`(2^64 - 1) mod c > 2^31 - 1`, which no clock up to 2^31 meets. -/
def Obligations.MaxPrecisionOverflowsExactlyAboveTheClock : Prop :=
  ∀ c : Nat, 1 ≤ c → c < 2 ^ 32 →
    (∀ f sh : Nat, f ≤ c - 1 →
      tuningWord .maxPrecision f (recipOf c .maxPrecision) sh ≠ .error .errOverflow) ∧
    (∀ f sh : Nat, c + 1 ≤ f →
      tuningWord .maxPrecision f (recipOf c .maxPrecision) sh = .error .errOverflow) ∧
    (∀ sh : Nat, tuningWord .maxPrecision c (recipOf c .maxPrecision) sh = .error .errOverflow ↔
      (2 ^ 64 - 1) % c ≤ 2 ^ 31 - 1) ∧
    (c ≤ 2 ^ 31 → (2 ^ 64 - 1) % c ≤ 2 ^ 31 - 1)

/-- R94: accuracy. `MAX_PRECISION`: the word differs from f * 2^32 / c by less than 1.5. `SHIFT_SCALED`: the word before
truncation differs from it by at most `f / 2^s + r / 2^(s+4) + 1` (both sides times `c * 2^(s+4)`). -/
def Obligations.TuningWordAccuracy : Prop :=
  (∀ (c f sh : Nat) (tw : TuningWord), 1 ≤ c → c < 2 ^ 32 →
    tuningWord .maxPrecision f (recipOf c .maxPrecision) sh = .ok tw →
    |2 * ((tw.toNat : Int) * c - f * 2 ^ 32)| < (3 * c : Int)) ∧
  (∀ c f r s : Nat, 1 ≤ c → c < 2 ^ 32 → 1 ≤ f → s = shiftOf c → r = recipOf c .shiftScaled →
    |((((f * r + r / 16) / 2 ^ s : Nat) : Int) * c - f * 2 ^ 32) * 2 ^ (s + 4)| ≤
      (c * (16 * f + r + 2 ^ (s + 4)) : Int))

/-- R18: the frame of `F2W` and `SETF`: ECLK, CLKV and the rest never change; a pair that was fresh stays; a fault or a
refusal leaves every register but FCODE; `F2W` never touches the TX port. -/
def Obligations.RequestFrame : Prop :=
  ∀ (s t : State) (f : Nat) (i : Instr), i = .f2w f ∨ i = .setf f → exec i s = .next t →
    t.eclk = s.eclk ∧ t.clkv = s.clkv ∧ t.params = s.params ∧ t.input = s.input ∧
    (i = .f2w f → t.handoffs = s.handoffs) ∧
    (s.fresh = true ∨ t.fcode ≠ none →
      t.recip = s.recip ∧ t.shift = s.shift ∧ t.fresh = s.fresh ∧ t.deriveCount = s.deriveCount) ∧
    (s.params.mode = .maxPrecision → t.shift = s.shift)

/-! ### Transmit (43_transmit.md, 20_memory.md R38) -/

/-- R97: `SETF f`, arm by arm: the frame handed off and the word answered are `tuning_word`'s. -/
def Obligations.SetfFollowsItsRule : Prop :=
  ∀ f : Nat, requestRule (.setf f) f fun tw t => responded (handedOff t tw) .ok tw.toNat 0

/-- R98: `SENDRAW word`, whatever the registers. -/
def Obligations.SendrawFollowsItsRule : Prop :=
  ∀ (s : State) (word : Nat), word < 2 ^ 32 →
    (s.fcode ≠ none → exec (.sendraw word) s = .next (refused s)) ∧
    (s.fcode = none →
      exec (.sendraw word) s = .next (responded (handedOff s (BitVec.ofNat 32 word)) .ok word 0))

/-- R97: "The state it leaves is exactly the state `F2W f` leaves; the only difference between the two commands is the
hand-off". -/
def Obligations.SetfIsF2wWithAHandoff : Prop :=
  ∀ (s t u : State) (f : Nat), exec (.f2w f) s = .next t → exec (.setf f) s = .next u →
    u = { t with handoffs := u.handoffs } ∧
    (∀ v sh, t.response = some ⟨.ok, v, sh⟩ → u.handoffs = s.handoffs ++ [⟨v.setWidth 32, s.params.ctrlByte⟩])

/-- §6 of the document in R90, R98: a word precomputed with `F2W` and sent with `SENDRAW` gives the state and the
hand-off that `SETF` gives. -/
def Obligations.F2wThenSendrawIsSetf : Prop :=
  ∀ (s t u x : State) (f : Nat) (v : ValWord) (sh : ShiftWord),
    exec (.f2w f) s = .next t → t.response = some ⟨.ok, v, sh⟩ → exec (.sendraw v.toNat) t = .next u →
    exec (.setf f) s = .next x →
    u.handoffs = x.handoffs ∧ u.response = x.response ∧ u.statusPorts = x.statusPorts

/-- R99: twice the same `SETF` with no calibration between: the same word, the same frame twice, and at most one derive
step, none in the second. -/
def Obligations.SetfTwiceDerivesOnce : Prop :=
  ∀ (s t u : State) (f : Nat), exec (.setf f) s = .next t → t.fcode = none → exec (.setf f) t = .next u →
    ∃ tw : TuningWord,
      t.handoffs = s.handoffs ++ [⟨tw, s.params.ctrlByte⟩] ∧
      u.handoffs = s.handoffs ++ [⟨tw, s.params.ctrlByte⟩, ⟨tw, s.params.ctrlByte⟩] ∧
      t.response = some ⟨.ok, BitVec.ofNat 65 tw.toNat, 0⟩ ∧ u.response = t.response ∧
      u.statusPorts = t.statusPorts ∧ t.deriveCount ≤ s.deriveCount + 1 ∧ u.deriveCount = t.deriveCount

/-- R104: `CAL 0` then `SETF f` sends the word of the nominal clock. -/
def Obligations.ZeroCalibrationUsesTheNominalClock : Prop :=
  ∀ (s t u : State) (f : Nat), s.params.wf = true → exec (.cal 0) s = .next t → exec (.setf f) t = .next u →
    u.fcode = none →
    ∃ tw, tuningWord s.params.mode f (recipOf s.params.nominal.toNat s.params.mode)
        (pairShift s.params.nominal.toNat s.params.mode) = .ok tw ∧
      u.handoffs = s.handoffs ++ [⟨tw, s.params.ctrlByte⟩]

/-- R18: the frame of `SENDRAW`: no register is written; a refusal hands off nothing. -/
def Obligations.SendrawFrame : Prop :=
  ∀ (s t : State) (word : Nat), exec (.sendraw word) s = .next t →
    t.statusPorts = s.statusPorts ∧ t.shift = s.shift ∧ t.params = s.params ∧ t.input = s.input ∧
    t.deriveCount = s.deriveCount ∧ (s.fcode ≠ none → t.handoffs = s.handoffs)

/-- R38: the frame and its five bytes in sending order. -/
def Obligations.FrameIsFiveBytesLeastSignificantFirst : Prop :=
  (∀ (tw : TuningWord) (ctrl : CtrlByte),
    (frame tw ctrl).toNat = ctrl.toNat * 2 ^ 32 + tw.toNat ∧
    (frameBytes (frame tw ctrl)).map (fun b => b.toNat) =
      [tw.toNat % 256, tw.toNat / 2 ^ 8 % 256, tw.toNat / 2 ^ 16 % 256, tw.toNat / 2 ^ 24, ctrl.toNat]) ∧
  frameBytes (frame 0x7FE8685D#32 0x01#8) = [0x5D#8, 0x68#8, 0xE8#8, 0x7F#8, 0x01#8]
end

