-- ==== Sys2Proof/Laws/Arithmetic.lean ====
section
/-! SUPPORT. Bounds of `shift_of` and `recip_of` (41_reciprocal.md R70 to R74) that every proof about the derive step
uses. -/

namespace Sys2Proof.Machine

/-- The shift of a clock puts the clock between two powers of two. -/
theorem shiftOf_bounds {c : Nat} (h1 : 1 ≤ c) (h2 : c < 2 ^ 33) :
    shiftOf c ≤ 32 ∧ 2 ^ (32 - shiftOf c) ≤ c ∧ c < 2 ^ (33 - shiftOf c) := by
  have hl := Nat.log2_self_le (n := c) (by omega)
  have hu := Nat.lt_log2_self (n := c)
  have hlt : c.log2 < 33 := (Nat.log2_lt (by omega)).2 h2
  unfold shiftOf bitlen
  refine ⟨by omega, ?_, ?_⟩
  · have : 32 - (33 - (c.log2 + 1)) = c.log2 := by omega
    rw [this]; exact hl
  · have : 33 - (33 - (c.log2 + 1)) = c.log2 + 1 := by omega
    rw [this]; exact hu

/-- A shift fits the 6 bits of register SHIFT, whatever the clock. -/
theorem shiftOf_lt (c : Nat) : shiftOf c < 2 ^ 6 := by unfold shiftOf; omega

end Sys2Proof.Machine
end

