-- ==== Sys2Proof/Laws/State.lean ====
section
/-! SUPPORT. One lemma per field per update of the state, each true by rfl: what every operation of Flags, Ops,
Calibration and Reciprocal writes, and what it leaves. -/

namespace Sys2Proof.Machine

variable (s : State)

@[simp] theorem markStale_params : s.markStale.params = s.params := rfl
@[simp] theorem markStale_eclk : s.markStale.eclk = s.eclk := rfl
@[simp] theorem markStale_recip : s.markStale.recip = s.recip := rfl
@[simp] theorem markStale_shift : s.markStale.shift = s.shift := rfl
@[simp] theorem markStale_fresh : s.markStale.fresh = false := rfl
@[simp] theorem markStale_clkv : s.markStale.clkv = s.clkv := rfl
@[simp] theorem markStale_fcode : s.markStale.fcode = s.fcode := rfl
@[simp] theorem markStale_input : s.markStale.input = s.input := rfl
@[simp] theorem markStale_response : s.markStale.response = s.response := rfl
@[simp] theorem markStale_responses : s.markStale.responses = s.responses := rfl
@[simp] theorem markStale_handoffs : s.markStale.handoffs = s.handoffs := rfl
@[simp] theorem markStale_deriveCount : s.markStale.deriveCount = s.deriveCount := rfl

@[simp] theorem markFresh_params : s.markFresh.params = s.params := rfl
@[simp] theorem markFresh_eclk : s.markFresh.eclk = s.eclk := rfl
@[simp] theorem markFresh_recip : s.markFresh.recip = s.recip := rfl
@[simp] theorem markFresh_shift : s.markFresh.shift = s.shift := rfl
@[simp] theorem markFresh_fresh : s.markFresh.fresh = true := rfl
@[simp] theorem markFresh_clkv : s.markFresh.clkv = s.clkv := rfl
@[simp] theorem markFresh_fcode : s.markFresh.fcode = s.fcode := rfl
@[simp] theorem markFresh_input : s.markFresh.input = s.input := rfl
@[simp] theorem markFresh_response : s.markFresh.response = s.response := rfl
@[simp] theorem markFresh_responses : s.markFresh.responses = s.responses := rfl
@[simp] theorem markFresh_handoffs : s.markFresh.handoffs = s.handoffs := rfl
@[simp] theorem markFresh_deriveCount : s.markFresh.deriveCount = s.deriveCount := rfl

@[simp] theorem markClockValid_params : s.markClockValid.params = s.params := rfl
@[simp] theorem markClockValid_eclk : s.markClockValid.eclk = s.eclk := rfl
@[simp] theorem markClockValid_recip : s.markClockValid.recip = s.recip := rfl
@[simp] theorem markClockValid_shift : s.markClockValid.shift = s.shift := rfl
@[simp] theorem markClockValid_fresh : s.markClockValid.fresh = s.fresh := rfl
@[simp] theorem markClockValid_clkv : s.markClockValid.clkv = true := rfl
@[simp] theorem markClockValid_fcode : s.markClockValid.fcode = s.fcode := rfl
@[simp] theorem markClockValid_input : s.markClockValid.input = s.input := rfl
@[simp] theorem markClockValid_response : s.markClockValid.response = s.response := rfl
@[simp] theorem markClockValid_responses : s.markClockValid.responses = s.responses := rfl
@[simp] theorem markClockValid_handoffs : s.markClockValid.handoffs = s.handoffs := rfl
@[simp] theorem markClockValid_deriveCount : s.markClockValid.deriveCount = s.deriveCount := rfl

@[simp] theorem recordFault_params (c : FaultCode) : (s.recordFault c).params = s.params := rfl
@[simp] theorem recordFault_eclk (c : FaultCode) : (s.recordFault c).eclk = s.eclk := rfl
@[simp] theorem recordFault_recip (c : FaultCode) : (s.recordFault c).recip = s.recip := rfl
@[simp] theorem recordFault_shift (c : FaultCode) : (s.recordFault c).shift = s.shift := rfl
@[simp] theorem recordFault_fresh (c : FaultCode) : (s.recordFault c).fresh = s.fresh := rfl
@[simp] theorem recordFault_clkv (c : FaultCode) : (s.recordFault c).clkv = s.clkv := rfl
@[simp] theorem recordFault_fcode (c : FaultCode) : (s.recordFault c).fcode = some c := rfl
@[simp] theorem recordFault_input (c : FaultCode) : (s.recordFault c).input = s.input := rfl
@[simp] theorem recordFault_response (c : FaultCode) : (s.recordFault c).response = s.response := rfl
@[simp] theorem recordFault_responses (c : FaultCode) : (s.recordFault c).responses = s.responses := rfl
@[simp] theorem recordFault_handoffs (c : FaultCode) : (s.recordFault c).handoffs = s.handoffs := rfl
@[simp] theorem recordFault_deriveCount (c : FaultCode) : (s.recordFault c).deriveCount = s.deriveCount := rfl

@[simp] theorem respond_params (st : Status) (v : ValWord) (h : ShiftWord) : (s.respond st v h).params = s.params := rfl
@[simp] theorem respond_eclk (st : Status) (v : ValWord) (h : ShiftWord) : (s.respond st v h).eclk = s.eclk := rfl
@[simp] theorem respond_recip (st : Status) (v : ValWord) (h : ShiftWord) : (s.respond st v h).recip = s.recip := rfl
@[simp] theorem respond_shift (st : Status) (v : ValWord) (h : ShiftWord) : (s.respond st v h).shift = s.shift := rfl
@[simp] theorem respond_fresh (st : Status) (v : ValWord) (h : ShiftWord) : (s.respond st v h).fresh = s.fresh := rfl
@[simp] theorem respond_clkv (st : Status) (v : ValWord) (h : ShiftWord) : (s.respond st v h).clkv = s.clkv := rfl
@[simp] theorem respond_fcode (st : Status) (v : ValWord) (h : ShiftWord) : (s.respond st v h).fcode = s.fcode := rfl
@[simp] theorem respond_input (st : Status) (v : ValWord) (h : ShiftWord) : (s.respond st v h).input = s.input := rfl
@[simp] theorem respond_response (st : Status) (v : ValWord) (h : ShiftWord) : (s.respond st v h).response = some ⟨st, v, h⟩ := rfl
@[simp] theorem respond_responses (st : Status) (v : ValWord) (h : ShiftWord) : (s.respond st v h).responses = s.responses ++ [⟨st, v, h⟩] := rfl
@[simp] theorem respond_handoffs (st : Status) (v : ValWord) (h : ShiftWord) : (s.respond st v h).handoffs = s.handoffs := rfl
@[simp] theorem respond_deriveCount (st : Status) (v : ValWord) (h : ShiftWord) : (s.respond st v h).deriveCount = s.deriveCount := rfl

@[simp] theorem takeFault_params (c : FaultCode) : (s.takeFault c).params = s.params := rfl
@[simp] theorem takeFault_eclk (c : FaultCode) : (s.takeFault c).eclk = s.eclk := rfl
@[simp] theorem takeFault_recip (c : FaultCode) : (s.takeFault c).recip = s.recip := rfl
@[simp] theorem takeFault_shift (c : FaultCode) : (s.takeFault c).shift = s.shift := rfl
@[simp] theorem takeFault_fresh (c : FaultCode) : (s.takeFault c).fresh = s.fresh := rfl
@[simp] theorem takeFault_clkv (c : FaultCode) : (s.takeFault c).clkv = s.clkv := rfl
@[simp] theorem takeFault_fcode (c : FaultCode) : (s.takeFault c).fcode = some c := rfl
@[simp] theorem takeFault_input (c : FaultCode) : (s.takeFault c).input = s.input := rfl
@[simp] theorem takeFault_response (c : FaultCode) : (s.takeFault c).response = some ⟨c.status, 0, 0⟩ := rfl
@[simp] theorem takeFault_responses (c : FaultCode) : (s.takeFault c).responses = s.responses ++ [⟨c.status, 0, 0⟩] := rfl
@[simp] theorem takeFault_handoffs (c : FaultCode) : (s.takeFault c).handoffs = s.handoffs := rfl
@[simp] theorem takeFault_deriveCount (c : FaultCode) : (s.takeFault c).deriveCount = s.deriveCount := rfl

@[simp] theorem refuse_params : s.refuse.params = s.params := rfl
@[simp] theorem refuse_eclk : s.refuse.eclk = s.eclk := rfl
@[simp] theorem refuse_recip : s.refuse.recip = s.recip := rfl
@[simp] theorem refuse_shift : s.refuse.shift = s.shift := rfl
@[simp] theorem refuse_fresh : s.refuse.fresh = s.fresh := rfl
@[simp] theorem refuse_clkv : s.refuse.clkv = s.clkv := rfl
@[simp] theorem refuse_fcode : s.refuse.fcode = s.fcode := rfl
@[simp] theorem refuse_input : s.refuse.input = s.input := rfl
@[simp] theorem refuse_response : s.refuse.response = some ⟨.errFaulted, 0, 0⟩ := rfl
@[simp] theorem refuse_responses : s.refuse.responses = s.responses ++ [⟨.errFaulted, 0, 0⟩] := rfl
@[simp] theorem refuse_handoffs : s.refuse.handoffs = s.handoffs := rfl
@[simp] theorem refuse_deriveCount : s.refuse.deriveCount = s.deriveCount := rfl

@[simp] theorem takeReset_params : s.takeReset.params = s.params := rfl
@[simp] theorem takeReset_eclk : s.takeReset.eclk = Config.resetEclk := rfl
@[simp] theorem takeReset_recip : s.takeReset.recip = State.resetRecip s.params := rfl
@[simp] theorem takeReset_shift : s.takeReset.shift = State.resetShift s.params := rfl
@[simp] theorem takeReset_fresh : s.takeReset.fresh = false := rfl
@[simp] theorem takeReset_clkv : s.takeReset.clkv = false := rfl
@[simp] theorem takeReset_fcode : s.takeReset.fcode = none := rfl
@[simp] theorem takeReset_input : s.takeReset.input = s.input := rfl
@[simp] theorem takeReset_response : s.takeReset.response = none := rfl
@[simp] theorem takeReset_responses : s.takeReset.responses = s.responses := rfl
@[simp] theorem takeReset_handoffs : s.takeReset.handoffs = s.handoffs := rfl
@[simp] theorem takeReset_deriveCount : s.takeReset.deriveCount = s.deriveCount := rfl

@[simp] theorem transmit_params (tw : TuningWord) : (s.transmit tw).params = s.params := rfl
@[simp] theorem transmit_eclk (tw : TuningWord) : (s.transmit tw).eclk = s.eclk := rfl
@[simp] theorem transmit_recip (tw : TuningWord) : (s.transmit tw).recip = s.recip := rfl
@[simp] theorem transmit_shift (tw : TuningWord) : (s.transmit tw).shift = s.shift := rfl
@[simp] theorem transmit_fresh (tw : TuningWord) : (s.transmit tw).fresh = s.fresh := rfl
@[simp] theorem transmit_clkv (tw : TuningWord) : (s.transmit tw).clkv = s.clkv := rfl
@[simp] theorem transmit_fcode (tw : TuningWord) : (s.transmit tw).fcode = s.fcode := rfl
@[simp] theorem transmit_input (tw : TuningWord) : (s.transmit tw).input = s.input := rfl
@[simp] theorem transmit_response (tw : TuningWord) : (s.transmit tw).response = s.response := rfl
@[simp] theorem transmit_responses (tw : TuningWord) : (s.transmit tw).responses = s.responses := rfl
@[simp] theorem transmit_handoffs (tw : TuningWord) : (s.transmit tw).handoffs = s.handoffs ++ [⟨tw, s.params.ctrlByte⟩] := rfl
@[simp] theorem transmit_deriveCount (tw : TuningWord) : (s.transmit tw).deriveCount = s.deriveCount := rfl

@[simp] theorem establishClock_params (e : Nat) : (s.establishClock e).params = s.params := rfl
@[simp] theorem establishClock_eclk (e : Nat) : (s.establishClock e).eclk = BitVec.ofNat 32 e := rfl
@[simp] theorem establishClock_recip (e : Nat) : (s.establishClock e).recip = s.recip := rfl
@[simp] theorem establishClock_shift (e : Nat) : (s.establishClock e).shift = s.shift := rfl
@[simp] theorem establishClock_fresh (e : Nat) : (s.establishClock e).fresh = false := rfl
@[simp] theorem establishClock_clkv (e : Nat) : (s.establishClock e).clkv = true := rfl
@[simp] theorem establishClock_fcode (e : Nat) : (s.establishClock e).fcode = s.fcode := rfl
@[simp] theorem establishClock_input (e : Nat) : (s.establishClock e).input = s.input := rfl
@[simp] theorem establishClock_response (e : Nat) : (s.establishClock e).response = s.response := rfl
@[simp] theorem establishClock_responses (e : Nat) : (s.establishClock e).responses = s.responses := rfl
@[simp] theorem establishClock_handoffs (e : Nat) : (s.establishClock e).handoffs = s.handoffs := rfl
@[simp] theorem establishClock_deriveCount (e : Nat) : (s.establishClock e).deriveCount = s.deriveCount := rfl

@[simp] theorem commitPair_params (p : RecipPair) : (s.commitPair p).params = s.params := rfl
@[simp] theorem commitPair_eclk (p : RecipPair) : (s.commitPair p).eclk = s.eclk := rfl
@[simp] theorem commitPair_recip (p : RecipPair) : (s.commitPair p).recip = BitVec.ofNat 65 p.recip := rfl
@[simp] theorem commitPair_shift (p : RecipPair) : (s.commitPair p).shift = (match s.params.mode with | .shiftScaled => shOf p.shift | .maxPrecision => s.shift) := rfl
@[simp] theorem commitPair_fresh (p : RecipPair) : (s.commitPair p).fresh = true := rfl
@[simp] theorem commitPair_clkv (p : RecipPair) : (s.commitPair p).clkv = s.clkv := rfl
@[simp] theorem commitPair_fcode (p : RecipPair) : (s.commitPair p).fcode = s.fcode := rfl
@[simp] theorem commitPair_input (p : RecipPair) : (s.commitPair p).input = s.input := rfl
@[simp] theorem commitPair_response (p : RecipPair) : (s.commitPair p).response = s.response := rfl
@[simp] theorem commitPair_responses (p : RecipPair) : (s.commitPair p).responses = s.responses := rfl
@[simp] theorem commitPair_handoffs (p : RecipPair) : (s.commitPair p).handoffs = s.handoffs := rfl
@[simp] theorem commitPair_deriveCount (p : RecipPair) : (s.commitPair p).deriveCount = s.deriveCount + 1 := rfl

@[simp] theorem present_params (w : CmdWord) : (s.present w).params = s.params := rfl
@[simp] theorem present_eclk (w : CmdWord) : (s.present w).eclk = s.eclk := rfl
@[simp] theorem present_recip (w : CmdWord) : (s.present w).recip = s.recip := rfl
@[simp] theorem present_shift (w : CmdWord) : (s.present w).shift = s.shift := rfl
@[simp] theorem present_fresh (w : CmdWord) : (s.present w).fresh = s.fresh := rfl
@[simp] theorem present_clkv (w : CmdWord) : (s.present w).clkv = s.clkv := rfl
@[simp] theorem present_fcode (w : CmdWord) : (s.present w).fcode = s.fcode := rfl
@[simp] theorem present_input (w : CmdWord) : (s.present w).input = .command w :: s.input := rfl
@[simp] theorem present_response (w : CmdWord) : (s.present w).response = s.response := rfl
@[simp] theorem present_responses (w : CmdWord) : (s.present w).responses = s.responses := rfl
@[simp] theorem present_handoffs (w : CmdWord) : (s.present w).handoffs = s.handoffs := rfl
@[simp] theorem present_deriveCount (w : CmdWord) : (s.present w).deriveCount = s.deriveCount := rfl

end Sys2Proof.Machine
end

