-- ==== Sys2Proof/Laws/Ops.lean ====
section
/-! SUPPORT. For each shared operation one lemma that says once everything it can do; proofs about the commands cite these
instead of unfolding the operation. -/

namespace Sys2Proof.Machine

theorem halted_iff (s : State) : s.halted = true ↔ s.fcode ≠ none := by
  unfold State.halted; cases s.fcode <;> simp

theorem halted_eq_false_iff (s : State) : s.halted = false ↔ s.fcode = none := by
  unfold State.halted; cases s.fcode <;> simp

theorem unlessHalted_of_halted {s : State} (h : s.fcode ≠ none) (run : State) : s.unlessHalted run = s.refuse := by
  simp [State.unlessHalted, (halted_iff s).2 h]

theorem unlessHalted_of_running {s : State} (h : s.fcode = none) (run : State) : s.unlessHalted run = run := by
  simp [State.unlessHalted, (halted_eq_false_iff s).2 h]

/-- Everything `calibrate` can answer, with the test that makes it so. -/
theorem calibrate_cases (nominal : Nat) (ppb : Int) :
    (calFactor ppb ≤ 0 ∧ calibrate nominal ppb = .error .errCalZero) ∨
    (0 < calFactor ppb ∧ effClock nominal ppb = 0 ∧ calibrate nominal ppb = .error .errCalZero) ∨
    (0 < calFactor ppb ∧ 2 ^ 32 ≤ effClock nominal ppb ∧ calibrate nominal ppb = .error .errCalRange) ∨
    (0 < calFactor ppb ∧ 0 < effClock nominal ppb ∧ effClock nominal ppb < 2 ^ 32 ∧
      calibrate nominal ppb = .ok (effClock nominal ppb)) := by
  unfold calibrate Config.eclkW
  split_ifs <;> simp <;> omega

/-- Everything the derive step can answer. -/
theorem deriveStep_cases (s : State) :
    (s.clkv = false ∧ s.deriveStep = .error .errNoClock) ∨
    (s.clkv = true ∧ recipFits s.params (recipOf s.clock s.params.mode) = false ∧
      s.deriveStep = .error .errRecipRange) ∨
    (s.clkv = true ∧ recipFits s.params (recipOf s.clock s.params.mode) = true ∧
      s.deriveStep = .ok (pairOf s.clock s.params.mode)) := by
  unfold State.deriveStep
  split_ifs <;> simp_all

/-- Everything `fresh_pair` can answer. -/
theorem freshPair_cases (s : State) :
    (s.fresh = true ∧ s.freshPair = .ok (⟨s.recip.toNat, s.shift.toNat⟩, false)) ∨
    (s.fresh = false ∧ ∃ c, s.deriveStep = .error c ∧ s.freshPair = .error c) ∨
    (s.fresh = false ∧ ∃ p, s.deriveStep = .ok p ∧ s.freshPair = .ok (p, true)) := by
  unfold State.freshPair
  cases s.fresh <;> cases s.deriveStep <;> simp

/-- Everything `tuning_word` can answer. -/
theorem tuningWord_cases (mode : Mode) (f r sh : Nat) :
    (f = 0 ∧ tuningWord mode f r sh = .ok 0) ∨
    (f ≠ 0 ∧ 2 ^ 64 ≤ accumulator mode f r ∧ tuningWord mode f r sh = .error .errOverflow) ∨
    (f ≠ 0 ∧ accumulator mode f r < 2 ^ 64 ∧
      tuningWord mode f r sh = .ok (BitVec.ofNat 32 (accumulator mode f r >>> accShift mode sh))) := by
  unfold tuningWord Config.accW
  split_ifs <;> simp_all

/-- A clock that `calibrate` accepts. -/
theorem calibrate_ok {nominal e : Nat} {ppb : Int} (h : calibrate nominal ppb = .ok e) :
    0 < calFactor ppb ∧ e = effClock nominal ppb ∧ 1 ≤ e ∧ e < 2 ^ 32 := by
  rcases calibrate_cases nominal ppb with ⟨_, b⟩ | ⟨_, _, b⟩ | ⟨_, _, b⟩ | ⟨hk, h1, h2, b⟩ <;> rw [h] at b <;> cases b
  exact ⟨hk, rfl, h1, h2⟩

/-- A pair that the derive step gives. -/
theorem deriveStep_ok {s : State} {p : RecipPair} (h : s.deriveStep = .ok p) :
    s.clkv = true ∧ recipFits s.params (recipOf s.clock s.params.mode) = true ∧
    p = pairOf s.clock s.params.mode := by
  rcases deriveStep_cases s with ⟨_, b⟩ | ⟨_, _, b⟩ | ⟨hc, hp, b⟩ <;> rw [h] at b <;> cases b
  exact ⟨hc, hp, rfl⟩

/-- A pair that the derive step gives fits register RECIP (R73, R74). -/
theorem deriveStep_fits {s : State} {p : RecipPair} (h : s.deriveStep = .ok p) :
    p.recip < 2 ^ s.params.recipWidth := by
  obtain ⟨_, hp, rfl⟩ := deriveStep_ok h
  cases hm : s.params.mode
  · simpa [recipFits, hm, Params.recipWidth, pairOf] using hp
  · have := Nat.div_le_self (2 ^ 64 - 1) s.clock
    simp only [pairOf, recipOf, Params.recipWidth, hm, Config.recipMaxW]
    omega

/-- What fits register RECIP fits the `val` field (R16, R29). -/
theorem recipWidth_le_valWidth (p : Params) : p.recipWidth ≤ p.valWidth := by
  unfold Params.recipWidth Params.valWidth Config.recipMaxW
  cases p.mode <;> simp

/-- A pair that `fresh_pair` gives, and where it comes from. -/
theorem freshPair_ok {s : State} {p : RecipPair} {d : Bool} (h : s.freshPair = .ok (p, d)) :
    (s.fresh = true ∧ d = false ∧ p = ⟨s.recip.toNat, s.shift.toNat⟩) ∨
    (s.fresh = false ∧ d = true ∧ s.deriveStep = .ok p) := by
  rcases freshPair_cases s with ⟨hf, b⟩ | ⟨_, _, _, b⟩ | ⟨hf, _, hd, b⟩ <;> rw [h] at b <;> cases b
  · exact .inl ⟨hf, rfl, rfl⟩
  · exact .inr ⟨hf, rfl, hd⟩

/-- The state a request works on once its pair is committed. -/
theorem requestWord_cases (f : Nat) (finish : TuningWord → State → State) (s : State) :
    (∃ c, s.freshPair = .error c ∧ s.requestWord f finish = s.takeFault c) ∨
    (∃ p d, s.freshPair = .ok (p, d) ∧ tuningWord s.params.mode f p.recip p.shift = .error .errOverflow ∧
      s.requestWord f finish = s.takeFault .errOverflow) ∨
    (∃ p d tw, s.freshPair = .ok (p, d) ∧ tuningWord s.params.mode f p.recip p.shift = .ok tw ∧
      s.requestWord f finish = finish tw (if d then s.commitPair p else s)) := by
  unfold State.requestWord
  cases hp : s.freshPair with
  | error c => exact .inl ⟨c, rfl, rfl⟩
  | ok pd =>
    obtain ⟨p, d⟩ := pd
    rcases tuningWord_cases s.params.mode f p.recip p.shift with ⟨_, h⟩ | ⟨_, _, h⟩ | ⟨_, _, h⟩
    · exact .inr (.inr ⟨p, d, _, rfl, h, by simp [h]⟩)
    · exact .inr (.inl ⟨p, d, rfl, h, by simp [h]⟩)
    · exact .inr (.inr ⟨p, d, _, rfl, h, by simp [h]⟩)

/-- Everything taking a command word can do. -/
theorem takeCommand_cases (w : CmdWord) (s : State) :
    (s.fcode ≠ none ∧ takeCommand w s = .next s.refuse) ∨
    (s.fcode = none ∧ (∃ e, decode w = .error e) ∧ takeCommand w s = .next (s.takeFault .errIllegal)) ∨
    (s.fcode = none ∧ ∃ i, decode w = .ok i ∧ takeCommand w s = exec i s) := by
  by_cases h : s.fcode = none
  · have hh := (halted_eq_false_iff s).2 h
    cases hd : decode w <;> simp [takeCommand, hh, h, hd]
  · simp [takeCommand, (halted_iff s).2 h, h]

/-- Everything a step of a core with legal parameters can do: idle, reset, or take a command word. -/
theorem step_cases (s : State) (hp : s.params.wf = true) :
    (s.input = [] ∧ step s = .next s) ∨
    (∃ rest, s.input = .reset :: rest ∧ step s = .next ({ s with input := rest } : State).takeReset) ∨
    (∃ w rest, s.input = .command w :: rest ∧ step s = takeCommand w { s with input := rest }) := by
  rcases hi : s.input with _ | ⟨_ | _, rest⟩ <;> simp [step, hp, takeInput, hi]

end Sys2Proof.Machine
end

