-- ==== Sys2Proof/Laws/Commands.lean ====
section
/-! SUPPORT. What a command and a step can do, said once: every proof about `exec` or `step` splits on these cases instead
of unfolding the meanings. -/

namespace Sys2Proof.Machine

/-- A step that answers a next state was taken with legal parameters. -/
theorem params_wf_of_step {s t : State} (h : step s = .next t) : s.params.wf = true := by
  unfold step at h
  split at h
  · assumption
  · cases h

/-- What a command of a halted core is. -/
theorem exec_of_halted (i : Instr) {s : State} (h : s.fcode ≠ none) : exec i s = .next s.refuse := by
  cases i <;> simp only [exec, execCal, execDerive, execF2w, execSetf, execSendraw, unlessHalted_of_halted h]

/-- What a command of a core that is not halted is. Rewriting with it, for a variable operand, is cheaper than unfolding
a meaning at a literal one. -/
theorem exec_of_running (i : Instr) {s : State} (h : s.fcode = none) :
    exec i s = .next (match i with
      | .cal ppb =>
        match calibrate s.nominal ppb with
        | .error c => s.takeFault c
        | .ok e    => (s.establishClock e).respond .ok (valOf e) 0
      | .derive =>
        match s.deriveStep with
        | .error c => s.takeFault c
        | .ok p    => (s.commitPair p).respond .ok (valOf p.recip) (shOf p.shift)
      | .f2w f        => s.requestWord f fun tw t => t.respond .ok (valOf tw.toNat) 0
      | .setf f       => s.requestWord f fun tw t => (t.transmit tw).respond .ok (valOf tw.toNat) 0
      | .sendraw word => (s.transmit (rawWord word)).respond .ok (valOf (rawWord word).toNat) 0) := by
  cases i <;> simp only [exec, execCal, execDerive, execF2w, execSetf, execSendraw, unlessHalted_of_running h] <;> rfl

/-- Everything `CAL` can do. -/
theorem execCal_cases {ppb : Int} {s t : State} (h : exec (.cal ppb) s = .next t) :
    (s.fcode ≠ none ∧ t = s.refuse) ∨
    (s.fcode = none ∧ ∃ c, calibrate s.nominal ppb = .error c ∧ t = s.takeFault c) ∨
    (s.fcode = none ∧ ∃ e, calibrate s.nominal ppb = .ok e ∧ t = (s.establishClock e).respond .ok (valOf e) 0) := by
  by_cases hf : s.fcode = none
  · rw [exec_of_running _ hf] at h
    cases hc : calibrate s.nominal ppb <;> simp only [hc, Host.Outcome.next.injEq] at h
    · exact .inr (.inl ⟨hf, _, rfl, h.symm⟩)
    · exact .inr (.inr ⟨hf, _, rfl, h.symm⟩)
  · rw [exec_of_halted _ hf] at h
    cases h
    exact .inl ⟨hf, rfl⟩

/-- Everything `DERIVE` can do. -/
theorem execDerive_cases {s t : State} (h : exec .derive s = .next t) :
    (s.fcode ≠ none ∧ t = s.refuse) ∨
    (s.fcode = none ∧ ∃ c, s.deriveStep = .error c ∧ t = s.takeFault c) ∨
    (s.fcode = none ∧ ∃ p, s.deriveStep = .ok p ∧ t = (s.commitPair p).respond .ok (valOf p.recip) (shOf p.shift)) := by
  by_cases hf : s.fcode = none
  · rw [exec_of_running _ hf] at h
    cases hd : s.deriveStep <;> simp only [hd, Host.Outcome.next.injEq] at h
    · exact .inr (.inl ⟨hf, _, rfl, h.symm⟩)
    · exact .inr (.inr ⟨hf, _, rfl, h.symm⟩)
  · rw [exec_of_halted _ hf] at h
    cases h
    exact .inl ⟨hf, rfl⟩

/-- Everything `F2W` and `SETF` can do. -/
theorem execRequest_cases {i : Instr} {f : Nat} {s t : State} (hi : i = .f2w f ∨ i = .setf f)
    (h : exec i s = .next t) :
    (s.fcode ≠ none ∧ t = s.refuse) ∨
    (s.fcode = none ∧ ∃ c, t = s.takeFault c ∧ (s.freshPair = .error c ∨
      ∃ p d, s.freshPair = .ok (p, d) ∧ tuningWord s.params.mode f p.recip p.shift = .error c)) ∨
    (s.fcode = none ∧ ∃ p d tw, s.freshPair = .ok (p, d) ∧ tuningWord s.params.mode f p.recip p.shift = .ok tw ∧
      ((i = .f2w f ∧ t = (if d then s.commitPair p else s).respond .ok (valOf tw.toNat) 0) ∨
       (i = .setf f ∧ t = ((if d then s.commitPair p else s).transmit tw).respond .ok (valOf tw.toNat) 0))) := by
  by_cases hf : s.fcode = none
  · rw [exec_of_running _ hf] at h
    right
    rcases hi with rfl | rfl <;> simp only [Host.Outcome.next.injEq] at h
    all_goals
      rcases requestWord_cases f _ s with ⟨c, h1, h2⟩ | ⟨p, d, h1, h2, h3⟩ | ⟨p, d, tw, h1, h2, h3⟩
      · exact .inl ⟨hf, c, h.symm.trans h2, .inl h1⟩
      · exact .inl ⟨hf, _, h.symm.trans h3, .inr ⟨p, d, h1, h2⟩⟩
      · first
        | exact .inr ⟨hf, p, d, tw, h1, h2, .inl ⟨rfl, h.symm.trans h3⟩⟩
        | exact .inr ⟨hf, p, d, tw, h1, h2, .inr ⟨rfl, h.symm.trans h3⟩⟩
  · rw [exec_of_halted _ hf] at h
    cases h
    exact .inl ⟨hf, rfl⟩

/-- Everything a command can do: refuse, fault, or have its own effect, with what made it succeed. -/
theorem exec_cases {i : Instr} {s t : State} (h : exec i s = .next t) :
    (s.fcode ≠ none ∧ t = s.refuse) ∨
    (s.fcode = none ∧ ∃ c, t = s.takeFault c) ∨
    (s.fcode = none ∧ ∃ ppb e, i = .cal ppb ∧ calibrate s.nominal ppb = .ok e ∧
      t = (s.establishClock e).respond .ok (valOf e) 0) ∨
    (s.fcode = none ∧ ∃ p, i = .derive ∧ s.deriveStep = .ok p ∧
      t = (s.commitPair p).respond .ok (valOf p.recip) (shOf p.shift)) ∨
    (s.fcode = none ∧ ∃ f p d tw, i = .f2w f ∧ s.freshPair = .ok (p, d) ∧
      tuningWord s.params.mode f p.recip p.shift = .ok tw ∧
      t = (if d then s.commitPair p else s).respond .ok (valOf tw.toNat) 0) ∨
    (s.fcode = none ∧ ∃ f p d tw, i = .setf f ∧ s.freshPair = .ok (p, d) ∧
      tuningWord s.params.mode f p.recip p.shift = .ok tw ∧
      t = ((if d then s.commitPair p else s).transmit tw).respond .ok (valOf tw.toNat) 0) ∨
    (s.fcode = none ∧ ∃ v, i = .sendraw v ∧
      t = (s.transmit (rawWord v)).respond .ok (valOf (rawWord v).toNat) 0) := by
  by_cases hf : s.fcode = none
  · cases i <;>
      simp only [exec, execCal, execDerive, execF2w, execSetf, execSendraw, unlessHalted_of_running hf,
        Host.Outcome.next.injEq] at h <;>
      subst h
    case cal ppb =>
      cases hc : calibrate s.nominal ppb with
      | error c => exact .inr (.inl ⟨hf, c, rfl⟩)
      | ok e => exact .inr (.inr (.inl ⟨hf, _, _, rfl, hc, rfl⟩))
    case derive =>
      cases hc : s.deriveStep with
      | error c => exact .inr (.inl ⟨hf, c, rfl⟩)
      | ok p => exact .inr (.inr (.inr (.inl ⟨hf, _, rfl, rfl, rfl⟩)))
    case f2w f =>
      rcases requestWord_cases f (fun tw t => t.respond .ok (valOf tw.toNat) 0) s with
        ⟨c, _, h⟩ | ⟨p, d, _, _, h⟩ | ⟨p, d, tw, hp, hw, h⟩
      · exact .inr (.inl ⟨hf, c, h⟩)
      · exact .inr (.inl ⟨hf, _, h⟩)
      · exact .inr (.inr (.inr (.inr (.inl ⟨hf, f, p, d, tw, rfl, hp, hw, h⟩))))
    case setf f =>
      rcases requestWord_cases f (fun tw t => (t.transmit tw).respond .ok (valOf tw.toNat) 0) s with
        ⟨c, _, h⟩ | ⟨p, d, _, _, h⟩ | ⟨p, d, tw, hp, hw, h⟩
      · exact .inr (.inl ⟨hf, c, h⟩)
      · exact .inr (.inl ⟨hf, _, h⟩)
      · exact .inr (.inr (.inr (.inr (.inr (.inl ⟨hf, f, p, d, tw, rfl, hp, hw, h⟩)))))
    case sendraw v => exact .inr (.inr (.inr (.inr (.inr (.inr ⟨hf, v, rfl, rfl⟩)))))
  · cases i <;>
      simp only [exec, execCal, execDerive, execF2w, execSetf, execSendraw, unlessHalted_of_halted hf] at h <;>
      cases h <;> exact .inl ⟨hf, rfl⟩

/-- Everything a step can do: idle, reset, refuse a word, fault on a reserved word, or run a command. -/
theorem step_next_cases {s t : State} (h : step s = .next t) :
    (s.input = [] ∧ t = s) ∨
    (∃ rest, s.input = .reset :: rest ∧ t = ({ s with input := rest } : State).takeReset) ∨
    (∃ w rest, s.input = .command w :: rest ∧
      ((s.fcode ≠ none ∧ t = ({ s with input := rest } : State).refuse) ∨
       (s.fcode = none ∧ (∃ e, decode w = .error e) ∧ t = ({ s with input := rest } : State).takeFault .errIllegal) ∨
       (s.fcode = none ∧ ∃ i, decode w = .ok i ∧ exec i { s with input := rest } = .next t))) := by
  rcases step_cases s (params_wf_of_step h) with ⟨hi, h'⟩ | ⟨rest, hi, h'⟩ | ⟨w, rest, hi, h'⟩ <;> rw [h'] at h
  · cases h
    exact .inl ⟨hi, rfl⟩
  · cases h
    exact .inr (.inl ⟨rest, hi, rfl⟩)
  · refine .inr (.inr ⟨w, rest, hi, ?_⟩)
    rcases takeCommand_cases w { s with input := rest } with ⟨hf, hc⟩ | ⟨hf, he, hc⟩ | ⟨hf, i, hd, hc⟩ <;> rw [hc] at h
    · cases h
      exact .inl ⟨hf, rfl⟩
    · cases h
      exact .inr (.inl ⟨hf, he, rfl⟩)
    · exact .inr (.inr ⟨hf, i, hd, h⟩)

end Sys2Proof.Machine
end

