-- ==== Sys2Proof/Laws/Encoding.lean ====
section
/-! SUPPORT. The two fields of a command word as integers, of any word and of an encoded command (30_encoding.md R49). -/

namespace Sys2Proof

theorem opField_toNat (w : CmdWord) : (opField w).toNat = w.toNat / 2 ^ 32 := by
  have := w.isLt
  simp [opField, BitVec.extractLsb'_toNat, Nat.shiftRight_eq_div_pow]
  omega

theorem argField_toNat (w : CmdWord) : (argField w).toNat = w.toNat % 2 ^ 32 := by
  simp [argField, BitVec.extractLsb'_toNat]

theorem opField_eq_iff (w : CmdWord) (op : OpField) : opField w = op ↔ w.toNat / 2 ^ 32 = op.toNat := by
  rw [← opField_toNat, BitVec.toNat_inj]

theorem argField_eq_iff (w : CmdWord) (arg : ArgField) : argField w = arg ↔ w.toNat % 2 ^ 32 = arg.toNat := by
  rw [← argField_toNat, BitVec.toNat_inj]

/-- `w = op * 2^32 + arg` (R56). -/
theorem encode_toNat (i : Instr) : (encode i).toNat = i.opcode.toNat * 2 ^ 32 + i.argument.toNat := by
  have h : (encode i).toNat = i.opcode.toNat <<< 32 ||| i.argument.toNat :=
    BitVec.toNat_append i.opcode i.argument
  rw [h, ← Nat.shiftLeft_add_eq_or_of_lt i.argument.isLt, Nat.shiftLeft_eq]

theorem opField_encode (i : Instr) : opField (encode i) = i.opcode := by
  have := i.argument.isLt
  rw [opField_eq_iff, encode_toNat]
  omega

theorem argField_encode (i : Instr) : argField (encode i) = i.argument := by
  have := i.argument.isLt
  rw [argField_eq_iff, encode_toNat]
  omega

/-- A word is determined by its two fields. -/
theorem cmdWord_ext {w v : CmdWord} (ho : opField w = opField v) (ha : argField w = argField v) : w = v := by
  rw [opField_eq_iff, opField_toNat] at ho
  rw [argField_eq_iff, argField_toNat] at ha
  apply BitVec.eq_of_toNat_eq
  omega

/-- The assembler gives the encoder's word or nothing (R55). -/
theorem assemble_eq_some_iff (i : Instr) (w : CmdWord) : assemble i = some w ↔ i.wf = true ∧ encode i = w := by
  unfold assemble
  split <;> simp_all

end Sys2Proof
end

