-- ==== Sys2Proof/Laws/PerInstr.lean ====
section
/-! SUPPORT. Laws made per command. `TableRow`: a command's word selects the command's own row of the opcode table,
`(w AND mask) == match` (30_encoding.md R52). -/

namespace Sys2Proof.Laws.TableRow

/-- The word of the command has the row's fixed bits. -/
def Statement (i : Instr) : Prop := encode i &&& i.tableMask = i.tableMatch

/-- The mask of a row with a free operand keeps the opcode and drops the operand. -/
theorem opcode_mask (op : OpField) (arg : ArgField) : (op ++ arg) &&& 0xFF00000000#40 = op ++ 0#32 := by
  have hm : (0xFF00000000#40 : BitVec (8 + 32)) = 0xFF#8 ++ 0#32 := by decide
  have h8 : (0xFF#8 : BitVec 8) = BitVec.allOnes 8 := by decide
  rw [hm, BitVec.and_append, h8, BitVec.and_allOnes, BitVec.and_zero]

theorem cal (ppb : Int) : Statement (.cal ppb) :=
  (opcode_mask 0x01#8 _).trans (by decide : (0x01#8 ++ 0#32 : BitVec 40) = 0x0100000000#40)

theorem derive : Statement .derive := by unfold Statement; decide

theorem f2w (f : Nat) : Statement (.f2w f) :=
  (opcode_mask 0x03#8 _).trans (by decide : (0x03#8 ++ 0#32 : BitVec 40) = 0x0300000000#40)

theorem setf (f : Nat) : Statement (.setf f) :=
  (opcode_mask 0x04#8 _).trans (by decide : (0x04#8 ++ 0#32 : BitVec 40) = 0x0400000000#40)

theorem sendraw (word : Nat) : Statement (.sendraw word) :=
  (opcode_mask 0x05#8 _).trans (by decide : (0x05#8 ++ 0#32 : BitVec 40) = 0x0500000000#40)

end Sys2Proof.Laws.TableRow
end

