-- ==== Sys2Proof/Laws/Run.lean ====
section
/-! SUPPORT. A run of the host's `Core.run` on this machine, one step at a time. -/

namespace Sys2Proof.Machine

theorem core_run_zero (s : State) : core.run 0 s = .next s := rfl

theorem core_run_succ_of_next (k : Nat) {s u : State} (h : step s = .next u) : core.run (k + 1) s = core.run k u := by
  have h' : core.step s = .next u := h
  exact (Host.Core.run.eq_2 core s k).trans (by rw [h'])

/-- A run of `k + 1` steps that ends in a state took a first step to a state. -/
theorem core_run_succ_next {k : Nat} {s t : State} (h : core.run (k + 1) s = .next t) :
    ∃ u, step s = .next u ∧ core.run k u = .next t := by
  have h' := (Host.Core.run.eq_2 core s k).symm.trans h
  cases hs : core.step s with
  | next u => exact ⟨u, hs, (core_run_succ_of_next k hs).symm.trans h⟩
  | fault r => rw [hs] at h'; cases h'
  | refused r => rw [hs] at h'; cases h'

end Sys2Proof.Machine
end

