-- ==== Sys2Proof/Tests/Slice0.lean ====
section
/-! SUPPORT. Tests of one step on small states, with the expected values of 95_test_vectors.md and of the spec's worked
examples, and for every obligation with hypotheses a witness: concrete states and operands that meet them. -/

open Sys2Proof Sys2Proof.Machine Sys2Proof.Expected

namespace Sys2Proof.Tests

/-! ### Small states -/

def paramsOf (nominal : Nat) (mode : Mode) (recipW : Nat) : Params := ⟨BitVec.ofNat 32 nominal, mode, recipW, 0x01#8⟩

def ss : Params := paramsOf 180000000 .shiftScaled 32
def mx : Params := paramsOf 180000000 .maxPrecision 32

/-- A core that holds `eclk`, `recip` and `shift`, with the flags given. -/
def coreOf (p : Params) (eclk recip shift : Nat) (fresh clkv : Bool) : State :=
  ⟨p, BitVec.ofNat 32 eclk, BitVec.ofNat 65 recip, BitVec.ofNat 6 shift, fresh, clkv, none, [], none, [], [], 0⟩

/-- After reset, with arbitrary values in the data registers. -/
def idle (p : Params) : State := coreOf p 3 5 7 false false

/-- Calibrated to `eclk`, the pair stale. -/
def stale (p : Params) (eclk : Nat) : State := coreOf p eclk 5 7 false true

/-- The derived cores of E1: 180 MHz, and its pair in either mode. -/
def fresh180 : State := coreOf ss 180000000 763 5 true true
def fresh180max : State := coreOf mx 180000000 102481911520 0 true true

def haltedBy (c : FaultCode) (s : State) : State := { s with fcode := some c }

/-- The next state, where there is one. -/
def nextOf : Result → Option State
  | .next t => some t
  | _       => none

/-- Status, value and shift of the response a command gives. -/
def answer (r : Result) : Option (Option (Status × Nat × Nat)) :=
  (nextOf r).map fun t => t.response.map fun x => (x.status, x.val.toNat, x.sh.toNat)

/-- ECLK, RECIP, SHIFT, FRESH, CLKV and FCODE after a command. -/
def registers (r : Result) : Option (Nat × Nat × Nat × Bool × Bool × Nat) :=
  (nextOf r).map fun t => (t.eclk.toNat, t.recip.toNat, t.shiftPort.toNat, t.fresh, t.clkv, t.fcodePort.toNat)

/-- The frames handed off, as bytes in sending order. -/
def bytesSent (r : Result) : Option (List (List Nat)) :=
  (nextOf r).map fun t => t.handoffs.map fun h => (frameBytes h.frame).map BitVec.toNat

def stepWith (x : Input) (s : State) : Result := step { s with input := [x] }

/-! ### WellFormed: each check refuses an ill-formed term (R50, R55, R8) -/

theorem test_wf_cal_too_big : (Instr.cal 2147483648).wf = false := by decide
theorem test_wf_cal_too_small : (Instr.cal (-2147483649)).wf = false := by decide
theorem test_wf_f2w_too_big : (Instr.f2w 4294967296).wf = false := by decide
theorem test_wf_setf_too_big : (Instr.setf 4294967296).wf = false := by decide
theorem test_wf_sendraw_too_big : (Instr.sendraw 4294967296).wf = false := by decide
theorem test_wf_nominal_zero : (paramsOf 0 .shiftScaled 32).wf = false := by decide
theorem test_wf_recipW_too_small : (paramsOf 1 .shiftScaled 31).wf = false := by decide
theorem test_wf_recipW_too_big : (paramsOf 1 .maxPrecision 66).wf = false := by decide

/-! ### Decode: words of 30_encoding.md R58 and 95_test_vectors.md 2.1, for every constructor and every reserved form -/

theorem test_decode_cal : [0x0100000000, 0x01FFFFFC18, 0x017FFFFFFF, 0x0180000000].map (decodeTableWord 40) =
    [some (.cal 0), some (.cal (-1000)), some (.cal 2147483647), some (.cal (-2147483648))] := by decide
theorem test_decode_derive : [0x0200000000, 0x0200000001, 0x02FFFFFFFF].map (decodeTableWord 40) =
    [some .derive, none, none] := by decide
theorem test_decode_f2w : [0x0300000000, 0x03FFFFFFFF].map (decodeTableWord 40) =
    [some (.f2w 0), some (.f2w 4294967295)] := by decide
theorem test_decode_setf : [0x0400989680, 0x04055D4A80].map (decodeTableWord 40) =
    [some (.setf 10000000), some (.setf 90000000)] := by decide
theorem test_decode_sendraw : decodeTableWord 40 0x0580000000 = some (.sendraw 0x80000000) := by decide
theorem test_decode_reserved : [0x0000000000, 0x0600000000, 0xFF12345678, 0x8100000000].map (decodeTableWord 40) =
    [none, none, none, none] := by decide

/-- R56: `CAL -2500` is 0x01FFFFF63C; 95_test_vectors.md 2.2: `CAL -15259` is 0x01FFFFC465. -/
theorem test_encode_cal : [Instr.cal (-2500), .cal (-15259)].map encode = [0x01FFFFF63C#40, 0x01FFFFC465#40] := by
  decide

/-! ### Assembler (R56, R57) -/

theorem test_assemble_negative : assembleLine "CAL -2500 ; slow".toList = some [.command 0x01FFFFF63C#40] := by decide
theorem test_assemble_hexadecimal : assembleLine "SENDRAW 0x80000000".toList = some [.command 0x0580000000#40] := by
  decide
theorem test_assemble_listing :
    assembleListing ["INIT -15259, 32768".toList, "; only a comment".toList, "RESET".toList, "DERIVE".toList] =
      some [.command 0x01FFFFC465#40, .command 0x0400008000#40, .reset, .command 0x0200000000#40] := by decide
/-- P3: the reserved word of its listing; 40 bits are the most a word has. -/
theorem test_assemble_word : assembleLine ".word 0x0200000001      ; reserved word, no mnemonic".toList =
      some [.command 0x0200000001#40] ∧
    assembleLine ".word 0xFFFFFFFFFF".toList = some [.command 0xFFFFFFFFFF#40] ∧
    assembleLine ".word 0x10000000000".toList = none := by decide
theorem test_assemble_refuses : ["F2W 4294967296", "CAL", "DERIVE 0", "SETF -1", "FOO 1"].map
    (fun l => assembleLine l.toList) = [none, none, none, none, none] := by decide

/-! ### One step of each command (95_test_vectors.md, sections 2 and 3) -/

/-- 2.2: `CAL 1000` at 180 MHz, on a core whose pair is fresh. -/
theorem test_cal : registers (exec (.cal 1000) fresh180) = some (179999820, 763, 5, false, true, 0) ∧
    answer (exec (.cal 1000) fresh180) = some (some (.ok, 179999820, 0)) := by decide

/-- 2.2: the edges of the clock: quotient 0, the smallest clock, 2^32 - 2, 2^32, and the largest factor. -/
theorem test_cal_edges :
    [(180000000, 999999995), (180000000, 999999994), (2147483647, -1000000000), (2147483648, -1000000000),
      (180000000, -2147483648), (180000000, 1000000000)].map
      (fun (x : Nat × Int) => answer (exec (.cal x.2) (idle (paramsOf x.1 .shiftScaled 32)))) =
    [some (some (.errCalZero, 0, 0)), some (some (.ok, 1, 0)), some (some (.ok, 4294967294, 0)),
      some (some (.errCalRange, 0, 0)), some (some (.ok, 566547056, 0)), some (some (.errCalZero, 0, 0))] := by decide

/-- 2.3: 180 MHz in either mode. -/
theorem test_derive :
    registers (exec .derive (stale ss 180000000)) = some (180000000, 763, 5, true, true, 0) ∧
    registers (exec .derive (stale mx 180000000)) = some (180000000, 102481911520, 0, true, true, 0) ∧
    answer (exec .derive (stale ss 180000000)) = some (some (.ok, 763, 5)) :=
  ⟨by decide, by decide, by decide⟩

/-- 2.3: the slowest clocks, with a 32-bit and a 65-bit RECIP. -/
theorem test_derive_edges :
    answer (exec .derive (stale ss 65536)) = some (some (.errRecipRange, 0, 0)) ∧
    answer (exec .derive (stale ss 65537)) = some (some (.ok, 4294901760, 16)) ∧
    answer (exec .derive (stale (paramsOf 1 .shiftScaled 65) 1)) = some (some (.ok, 18446744073709551616, 32)) ∧
    answer (exec .derive (idle ss)) = some (some (.errNoClock, 0, 0)) := by decide

/-- 2.4: 90 MHz at 180 MHz in either mode, the stale one derived on the way. -/
theorem test_f2w :
    answer (exec (.f2w 90000000) (stale ss 180000000)) = some (some (.ok, 2145937501, 0)) ∧
    registers (exec (.f2w 90000000) (stale ss 180000000)) = some (180000000, 763, 5, true, true, 0) ∧
    answer (exec (.f2w 90000000) fresh180max) = some (some (.ok, 2147483648, 0)) := ⟨by decide, by decide, by decide⟩

/-- R89: truncation above the clock; P5: overflow in `MAX_PRECISION` mode, which discards the derived pair. -/
theorem test_f2w_edges :
    answer (exec (.f2w 65537) (stale ss 65537)) = some (some (.ok, 4094, 0)) ∧
    answer (exec (.f2w 180000000) (stale mx 180000000)) = some (some (.errOverflow, 0, 0)) ∧
    registers (exec (.f2w 180000000) (stale mx 180000000)) = some (180000000, 5, 0, false, true, 6) :=
  ⟨by decide, by decide, by decide⟩

/-- R97: `SETF 1` sends `19 00 00 00 01`; P6: `SETF 32768` sends `FF 8F FF 7F 01`. -/
theorem test_setf :
    bytesSent (exec (.setf 1) (stale ss 180000000)) = some [[0x19, 0, 0, 0, 0x01]] ∧
    answer (exec (.setf 1) (stale ss 180000000)) = some (some (.ok, 25, 0)) ∧
    bytesSent (exec (.setf 32768) (stale ss 65537)) = some [[0xFF, 0x8F, 0xFF, 0x7F, 0x01]] := by decide

/-- P5: the largest legal frequency sends, the clock itself faults and sends nothing. -/
theorem test_setf_edges :
    bytesSent (exec (.setf 179999999) fresh180max) = some [[0xE8, 0xFF, 0xFF, 0xFF, 0x01]] ∧
    bytesSent (exec (.setf 180000000) fresh180max) = some [] ∧
    answer (exec (.setf 0) (idle ss)) = some (some (.errNoClock, 0, 0)) := by decide

/-- R98: the word goes out as it is, calibrated or not; a halted core sends nothing. -/
theorem test_sendraw :
    bytesSent (exec (.sendraw 0x55551A39) (idle ss)) = some [[0x39, 0x1A, 0x55, 0x55, 0x01]] ∧
    answer (exec (.sendraw 0x55551A39) (idle ss)) = some (some (.ok, 1431640633, 0)) ∧
    answer (exec (.sendraw 1) (haltedBy .errIllegal (idle ss))) = some (some (.errFaulted, 0, 0)) := by decide

/-- P3: a reserved word halts the core and leaves its registers; R115: on a halted core it is refused instead. -/
theorem test_step_reserved :
    registers (stepWith (.command 0x0200000001#40) fresh180) = some (180000000, 763, 5, true, true, 1) ∧
    answer (stepWith (.command 0#40) (haltedBy .errOverflow fresh180)) = some (some (.errFaulted, 0, 0)) := by decide

/-- R123: reset clears the flags, FCODE and the response port. -/
theorem test_step_reset :
    (nextOf (stepWith .reset (haltedBy .errOverflow fresh180))).map
      (fun t => (t.fresh, t.clkv, t.fcode, t.response)) = some (false, false, none, none) := by decide

/-- The first step after reset runs the presented word. -/
theorem test_withFetchWord :
    answer (step (State.reset.withFetchWord 40 0x01FFFFFC18)) = some (some (.ok, 180000180, 0)) ∧
    answer (step (State.reset.withFetchWord 40 0x0400000001)) = some (some (.errNoClock, 0, 0)) := by decide

/-- R78 at 180 MHz (R71); R79 on 45 = 6 * 7 + 3. -/
theorem test_reference_algorithms : normalise 180000000 = (5760000000, 5) ∧
    restoringDivide 6 45 7 = (3, 6) := ⟨by decide, by decide⟩

/-! ### Witnesses: states and operands that meet the hypotheses of each obligation, clause by clause -/

/-- With one input to take. -/
def facing (x : Input) (s : State) : State := { s with input := [x] }

theorem witness_DecodeFollowsTheOpcodeCase :
    (0x0180000000#40).toNat / 2 ^ 32 = 1 ∧ ¬ (0x0180000000#40).toNat % 2 ^ 32 < 2 ^ 31 ∧
    (0x0200000000#40).toNat / 2 ^ 32 = 2 ∧ (0x0200000000#40).toNat % 2 ^ 32 = 0 ∧
    (0x03FFFFFFFF#40).toNat / 2 ^ 32 = 3 ∧ (0x0400000000#40).toNat / 2 ^ 32 = 4 ∧
    (0x05FFFFFFFF#40).toNat / 2 ^ 32 = 5 := by decide

theorem witness_reserved : reserved 0x00FFFFFFFF#40 ∧ reserved 0x0600000000#40 ∧ reserved 0xFFFFFFFFFF#40 ∧
    reserved 0x0200000001#40 ∧ ¬ reserved 0x0200000000#40 ∧ ¬ reserved 0x05FFFFFFFF#40 := by
  unfold reserved; decide

theorem witness_DecodeOfEncodeIsTheCommand :
    (Instr.cal (-2147483648)).wf = true ∧ (Instr.cal 2147483647).wf = true ∧ Instr.derive.wf = true ∧
    (Instr.f2w 4294967295).wf = true ∧ (Instr.setf 0).wf = true ∧ (Instr.sendraw 4294967295).wf = true := by decide

theorem witness_EncodeOfDecodeIsTheWord : decode 0x05FFFFFFFF#40 = .ok (.sendraw 4294967295) := by decide

theorem witness_TableRowSelectsItsCommand :
    0x01FFFFFFFF#40 &&& 0xFF00000000#40 = 0x0100000000#40 ∧ 0x0200000000#40 &&& 0xFFFFFFFFFF#40 = 0x0200000000#40 ∧
    0x03FFFFFFFF#40 &&& 0xFF00000000#40 = 0x0300000000#40 ∧ 0x0400000001#40 &&& 0xFF00000000#40 = 0x0400000000#40 ∧
    0x0580000000#40 &&& 0xFF00000000#40 = 0x0500000000#40 := by decide

theorem witness_AssemblerRefusesRatherThanTruncates :
    assemble (.cal (-2147483648)) = some 0x0180000000#40 ∧ assemble (.f2w 4294967295) = some 0x03FFFFFFFF#40 ∧
    assemble (.setf 0) = some 0x0400000000#40 ∧ assemble (.sendraw 4294967295) = some 0x05FFFFFFFF#40 := by decide

theorem witness_InitExpandsToCalThenSetf :
    (-2 ^ 31 ≤ (-2147483648 : Int) ∧ (-2147483648 : Int) < 2 ^ 31) ∧ 4294967295 < 2 ^ 32 := by decide

theorem witness_StepRunsTheDecodedCommand :
    (facing (.command 0x0200000000#40) (stale ss 65537)).params.wf = true ∧
    (facing (.command 0x0200000000#40) (stale ss 65537)).input = .command 0x0200000000#40 :: [] ∧
    decode 0x0200000000#40 = .ok .derive := by decide

theorem witness_PresentedCommandRunsNext : (idle mx).params.wf = true ∧ (Instr.cal (-1)).wf = true := by decide

theorem witness_IdleCoreKeepsAllItsState : fresh180.params.wf = true ∧ fresh180.input = [] := by decide

theorem witness_StepStopsOnlyOnIllegalParameters :
    (idle (paramsOf 0 .shiftScaled 32)).params.nominal.toNat = 0 ∧ (idle (paramsOf 1 .shiftScaled 31)).params.recipW < 32 ∧
    65 < (idle (paramsOf 1 .shiftScaled 66)).params.recipW ∧
    1 ≤ (idle (paramsOf 1 .shiftScaled 65)).params.nominal.toNat ∧ 32 ≤ (idle (paramsOf 1 .shiftScaled 65)).params.recipW ∧
    (idle (paramsOf 1 .shiftScaled 65)).params.recipW ≤ 65 := by decide

theorem witness_ReservedWordFaults :
    (facing (.command 0#40) fresh180).params.wf = true ∧ (facing (.command 0#40) fresh180).fcode = none ∧
    (facing (.command 0#40) fresh180).input = .command 0#40 :: [] ∧ reserved 0#40 := by
  unfold reserved; decide

theorem witness_HaltedCoreRefusesEveryWord :
    (facing (.command 0#40) (haltedBy .errNoClock (idle ss))).params.wf = true ∧
    (facing (.command 0#40) (haltedBy .errNoClock (idle ss))).fcode = some .errNoClock ∧
    (facing (.command 0#40) (haltedBy .errNoClock (idle ss))).input = .command 0#40 :: [] ∧
    (∀ rest, (facing (.command 0#40) (haltedBy .errNoClock (idle ss))).input ≠ .reset :: rest) ∧
    ∃ t, step (facing (.command 0#40) (haltedBy .errNoClock (idle ss))) = .next t :=
  ⟨by decide, by decide, by decide, (by intro rest h; cases h), _, rfl⟩

theorem witness_FaultMarkStaysForTheRestOfTheRun :
    ∃ t, (facing (.command 0x0100000000#40) (haltedBy .errOverflow fresh180)).fcode = some .errOverflow ∧
      Input.reset ∉ (facing (.command 0x0100000000#40) (haltedBy .errOverflow fresh180)).input ∧
      Sys2Proof.core.run 2 (facing (.command 0x0100000000#40) (haltedBy .errOverflow fresh180)) = .next t :=
  ⟨_, by decide, by decide, rfl⟩

theorem witness_ResetEventEffect :
    (facing .reset (haltedBy .errOverflow fresh180)).params.wf = true ∧
    (facing .reset (haltedBy .errOverflow fresh180)).input = .reset :: [] := by decide

/-- A reserved word on a halted core, and a reset event on it. -/
theorem witness_ResetIsTheOnlyWayOut :
    (∃ t, step (facing (.command 0#40) (haltedBy .errOverflow fresh180)) = .next t ∧
      (∀ rest, (facing (.command 0#40) (haltedBy .errOverflow fresh180)).input ≠ .reset :: rest) ∧
      (facing (.command 0#40) (haltedBy .errOverflow fresh180)).fcode = some .errOverflow) ∧
    ∃ t, step (facing .reset (haltedBy .errOverflow fresh180)) = .next t ∧
      ∃ rest, (facing .reset (haltedBy .errOverflow fresh180)).input = .reset :: rest :=
  ⟨⟨_, rfl, (by intro rest h; cases h), by decide⟩, _, rfl, _, rfl⟩

/-- Each flag cleared and set: a reset, `CAL 0` on either flag, and `F2W 1` on a stale pair. -/
theorem witness_FlagsChangeOnlyWhereTheyAreWritten :
    (∃ t, step (facing .reset fresh180) = .next t ∧ fresh180.clkv = true ∧ t.clkv = false ∧ fresh180.fresh = true ∧
      t.fresh = false) ∧
    (∃ t, step (facing (.command 0x0100000000#40) (idle ss)) = .next t ∧ (idle ss).clkv = false ∧ t.clkv = true) ∧
    (∃ t, step (facing (.command 0x0100000000#40) fresh180) = .next t ∧ t.fresh = false) ∧
    (∃ t, step (facing (.command 0x0300000001#40) (stale ss 65537)) = .next t ∧ (stale ss 65537).fresh = false ∧
      t.fresh = true) :=
  ⟨⟨_, rfl, by decide, by decide, by decide, by decide⟩, ⟨_, rfl, by decide, by decide⟩, ⟨_, rfl, by decide⟩,
    _, rfl, by decide, by decide⟩

theorem witness_FaultIsAllOrNothing :
    ∃ t, (facing (.command 0x0400000001#40) (idle ss)).fcode = none ∧
      step (facing (.command 0x0400000001#40) (idle ss)) = .next t ∧ t.fcode = some .errNoClock :=
  ⟨_, by decide, rfl, by decide⟩

theorem witness_StatusPortsShowTheRegisters :
    fresh180.params.mode = .shiftScaled ∧ fresh180max.params.mode = .maxPrecision := by decide

theorem witness_PowerOnMeetsTheInvariants :
    (paramsOf 1 .maxPrecision 65).wf = true ∧ (paramsOf 4294967295 .shiftScaled 32).wf = true := by decide

theorem inv_fresh180 : fresh180.Inv := by constructor <;> decide

theorem inv_stale65536 : (stale (paramsOf 65536 .shiftScaled 32) 65536).Inv := by constructor <;> decide

theorem witness_StepKeepsTheInvariants :
    ∃ t, (facing (.command 0x01FFFFFC18#40) fresh180).Inv ∧
      step (facing (.command 0x01FFFFFC18#40) fresh180) = .next t ∧ t.fresh = false ∧ t.eclk = 180000180#32 :=
  ⟨_, by constructor <;> decide, rfl, by decide, by decide⟩

theorem witness_PairIsRefreshedTogether :
    (∃ t, step (facing (.command 0x0200000000#40) (stale ss 65537)) = .next t ∧
      (∀ rest, (facing (.command 0x0200000000#40) (stale ss 65537)).input ≠ .reset :: rest) ∧
      t.recip ≠ (stale ss 65537).recip ∧ t.shift ≠ (stale ss 65537).shift) ∧
    (∃ t, step (facing (.command 0x0400000001#40) (stale mx 180000000)) = .next t ∧
      t.recip ≠ (stale mx 180000000).recip ∧ t.params.mode = .maxPrecision) :=
  ⟨⟨_, rfl, (by intro rest h; cases h), by decide, by decide⟩, _, rfl, by decide, by decide⟩

theorem witness_UnspecifiedValuesAreNeverRead :
    (coreOf ss 1 2 3 false false).params.wf = true ∧ coreOf ss 1 2 3 false false ≠ coreOf ss 9 8 7 false false ∧
    (coreOf ss 1 2 3 false false).specified = (coreOf ss 9 8 7 false false).specified ∧
    (coreOf mx 65537 2 3 true true).specified = (coreOf mx 65537 2 9 true true).specified := by decide

/-- For the obligations about any step that answers a next state. -/
theorem witness_step :
    (∃ t, step (facing (.command 0x0400000001#40) fresh180) = .next t ∧ t.handoffs ≠ fresh180.handoffs) ∧
    (∃ t, step (facing .reset fresh180) = .next t ∧ t.clkv = false) ∧ ∃ t, step fresh180 = .next t :=
  ⟨⟨_, rfl, by decide⟩, ⟨_, rfl, by decide⟩, _, rfl⟩

/-- A fault's response, and the widest `val`: 2^64, which a 1 Hz clock derives with `RECIP_W = 65`. -/
theorem witness_OneResponsePerCommandWord :
    (∃ t, step (facing (.command 0#40) fresh180) = .next t ∧ t.response = some ⟨.errIllegal, 0, 0⟩) ∧
    ∃ t, step (facing (.command 0x0200000000#40) (stale (paramsOf 1 .shiftScaled 65) 1)) = .next t ∧
      t.response = some ⟨.ok, BitVec.ofNat 65 (2 ^ 64), 32#6⟩ ∧ (paramsOf 1 .shiftScaled 65).valWidth = 65 :=
  ⟨⟨_, rfl, by decide⟩, _, rfl, by decide, by decide⟩

theorem witness_OnlySetfAndSendrawHandOff :
    (∃ t, exec (.setf 1) fresh180 = .next t ∧ t.handoffs ≠ fresh180.handoffs) ∧
    (∃ t, exec (.sendraw 1) fresh180 = .next t ∧ t.handoffs ≠ fresh180.handoffs) :=
  ⟨⟨_, rfl, by decide⟩, _, rfl, by decide⟩

theorem witness_EveryFrameCarriesTheControlByte :
    ∃ t, (∀ h ∈ (facing (.command 0x0500000007#40) fresh180).handoffs, h.ctrl = fresh180.params.ctrlByte) ∧
      step (facing (.command 0x0500000007#40) fresh180) = .next t ∧ t.handoffs = [⟨7#32, 1#8⟩] :=
  ⟨_, by decide, rfl, by decide⟩

/-- k = 0; k = 5 with quotient 0; quotient 2^32; quotients 1 and 2^32 - 1; and a halted core. -/
theorem witness_CalFollowsItsRule :
    (idle ss).fcode = none ∧ (haltedBy .errIllegal (idle ss)).fcode ≠ none ∧
    (1000000000 - 1000000000 : Int) ≤ 0 ∧
    (0 < (1000000000 - 999999995 : Int) ∧ ((idle ss).params.nominal.toNat : Int) * (1000000000 - 999999995) / 1000000000 = 0) ∧
    (0 < (1000000000 - -1000000000 : Int) ∧ 2 ^ 32 ≤ ((idle (paramsOf 2147483648 .shiftScaled 32)).params.nominal.toNat : Int) *
      (1000000000 - -1000000000) / 1000000000) ∧
    ((idle ss).params.nominal.toNat : Int) * (1000000000 - 999999994) / 1000000000 = (1 : Nat) ∧
    ((idle (paramsOf 4294967295 .maxPrecision 32)).params.nominal.toNat : Int) * (1000000000 - 0) / 1000000000 =
      (4294967295 : Nat) := by decide

theorem witness_CalIsIdempotent :
    fresh180.params.nominal = (stale mx 1).params.nominal ∧ fresh180.params.wf = true ∧ fresh180.fcode = none ∧
    (∃ t, exec (.cal 1000) fresh180 = .next t ∧ t.fcode = none) ∧
    (∃ t, exec (.cal 1000) (stale mx 1) = .next t ∧ t.fcode = none) :=
  ⟨by decide, by decide, by decide, ⟨_, rfl, by decide⟩, _, rfl, by decide⟩

theorem witness_CalAlwaysInvalidates :
    ∃ t, exec (.cal 0) fresh180 = .next t ∧ t.fcode = none ∧ fresh180.Inv ∧ fresh180.fresh = true ∧
      t.eclk = fresh180.eclk :=
  ⟨_, rfl, by decide, inv_fresh180, by decide, by decide⟩

theorem witness_CalFrame :
    (∃ t, exec (.cal 1000) fresh180 = .next t ∧ t.fcode = none) ∧
    (∃ t, exec (.cal 1000000000) fresh180 = .next t ∧ t.fcode = some .errCalZero) :=
  ⟨⟨_, rfl, by decide⟩, _, rfl, by decide⟩

theorem witness_CalibrationFitsItsWidths :
    4294967295 < 2 ^ 32 ∧ -2 ^ 31 ≤ (-2147483648 : Int) ∧ 0 < (1000000000 - -2147483648 : Int) ∧
    0 < (1000000000 - 999999999 : Int) := by decide

theorem witness_ShiftOfIsTheNormalisingShift :
    1 ≤ 1 ∧ 8589934591 < 2 ^ 33 ∧ 2 ^ 32 ≤ 1 * 2 ^ 32 ∧ 1 * 2 ^ 32 < 2 ^ 33 ∧
    2 ^ 32 ≤ 8589934591 * 2 ^ 0 ∧ 8589934591 * 2 ^ 0 < 2 ^ 33 ∧
    2 ^ 0 ≤ 1 ∧ 1 < 2 ^ (0 + 1) ∧ 2 ^ 32 ≤ 8589934591 ∧ 8589934591 < 2 ^ (32 + 1) := by decide

theorem witness_ShiftOfRange : shiftOf 1 = 32 ∧ shiftOf 2 = 31 ∧ shiftOf (2 ^ 31) = 1 ∧ shiftOf (2 ^ 32 - 1) = 1 ∧
    shiftOf (2 ^ 32) = 0 ∧ shiftOf (2 ^ 33 - 1) = 0 := by decide

theorem witness_ReciprocalSpans :
    recipOf 1 .shiftScaled = 2 ^ 64 ∧ recipOf 65536 .shiftScaled = 2 ^ 32 ∧ recipOf 65537 .shiftScaled = 4294901760 ∧
    recipOf 4294967295 .shiftScaled = 2 ∧ recipOf 1 .maxPrecision = 2 ^ 64 - 1 ∧
    recipOf 4294967295 .maxPrecision = 2 ^ 32 + 1 := by decide

theorem witness_DeriveFollowsItsRule :
    (haltedBy .errIllegal (idle ss)).fcode ≠ none ∧ ((idle ss).fcode = none ∧ (idle ss).clkv = false) ∧
    ((stale ss 65536).fcode = none ∧ (stale ss 65536).clkv = true ∧ (stale ss 65536).params.mode = .shiftScaled ∧
      2 ^ 32 ≤ (stale ss 65536).eclk.toNat * 2 ^ 16 ∧ (stale ss 65536).eclk.toNat * 2 ^ 16 < 2 ^ 33 ∧
      2 ^ (stale ss 65536).params.recipW ≤ 2 ^ (32 + 16) / (stale ss 65536).eclk.toNat) ∧
    (2 ^ 32 ≤ (stale ss 65537).eclk.toNat * 2 ^ 16 ∧ (stale ss 65537).eclk.toNat * 2 ^ 16 < 2 ^ 33 ∧
      2 ^ (32 + 16) / (stale ss 65537).eclk.toNat < 2 ^ (stale ss 65537).params.recipW) ∧
    ((stale mx 1).params.mode = .maxPrecision ∧ 1 ≤ (stale mx 1).eclk.toNat) := by decide

theorem witness_RecipRangeFaultsExactlyOnSlowClocks :
    (stale (paramsOf 65536 .shiftScaled 32) 65536).Inv ∧
    (∃ t, exec (.f2w 0) (stale (paramsOf 65536 .shiftScaled 32) 65536) = .next t ∧ t.fcode = some .errRecipRange) ∧
    (stale (paramsOf 65537 .shiftScaled 32) 65537).Inv ∧
    (∃ t, exec (.setf 0) (stale (paramsOf 65537 .shiftScaled 32) 65537) = .next t ∧ t.fcode = none) ∧
    (stale (paramsOf 1 .shiftScaled 65) 1).Inv ∧
    (∃ t, exec .derive (stale (paramsOf 1 .shiftScaled 65) 1) = .next t ∧ t.fcode = none) ∧
    (coreOf mx 1 5 0 false true).Inv ∧ ∃ t, exec .derive (coreOf mx 1 5 0 false true) = .next t ∧ t.fcode = none :=
  ⟨inv_stale65536, ⟨_, rfl, by decide⟩, by constructor <;> decide, ⟨_, rfl, by decide⟩, by constructor <;> decide,
    ⟨_, rfl, by decide⟩, by constructor <;> decide, _, rfl, by decide⟩

theorem witness_DeriveIsPure :
    (stale ss 65537).eclk = (coreOf ss 65537 1 2 true true).eclk ∧
    (∃ t u, exec .derive (stale ss 65537) = .next t ∧ t.fcode = none ∧ exec .derive t = .next u) ∧
    (∃ t, exec .derive (coreOf ss 65537 1 2 true true) = .next t ∧ t.fcode = none) :=
  ⟨by decide, ⟨_, _, rfl, by decide, rfl⟩, _, rfl, by decide⟩

theorem witness_DeriveFrame :
    (∃ t, exec .derive (stale ss 65537) = .next t ∧ t.fcode = none) ∧
    (∃ t, exec .derive (stale ss 65536) = .next t ∧ t.fcode = some .errRecipRange) ∧
    (∃ t, exec .derive (stale mx 65536) = .next t ∧ t.params.mode = .maxPrecision) :=
  ⟨⟨_, rfl, by decide⟩, ⟨_, rfl, by decide⟩, _, rfl, by decide⟩

theorem witness_ReferenceAlgorithms : normalise 1 = (4294967296, 32) ∧ normalise 4294967295 = (8589934590, 1) ∧
    1 ≤ 7 ∧ 45 < 2 ^ 6 := by decide

/-- A sum of 2^64 - 1 and one of 2^64, in either mode; and f = 0. -/
theorem witness_TuningWordFormulas :
    1 * (2 ^ 64 - 2 ^ 31 - 1) + 2 ^ 31 < 2 ^ 64 ∧ 2 ^ 64 ≤ 1 * (2 ^ 64 - 2 ^ 31) + 2 ^ 31 ∧
    1 * 17361641481138401521 + 17361641481138401521 / 16 ≥ 2 ^ 64 ∧
    1 * 17361641481138401519 + 17361641481138401519 / 16 < 2 ^ 64 := by decide

/-- The arms of R90 and R97: halted; fresh with a word and with an overflow; no clock; a pair that does not fit, and one
that does, with a word and with an overflow. -/
theorem witness_requestRule :
    (haltedBy .errIllegal fresh180).fcode ≠ none ∧
    (fresh180.fcode = none ∧ fresh180.fresh = true ∧
      tuningWord .shiftScaled 1 fresh180.recip.toNat fresh180.shift.toNat = .ok 25#32) ∧
    (fresh180max.fcode = none ∧ fresh180max.fresh = true ∧
      tuningWord .maxPrecision 180000000 fresh180max.recip.toNat fresh180max.shift.toNat = .error .errOverflow) ∧
    ((idle ss).fresh = false ∧ (idle ss).clkv = false) ∧
    ((stale ss 65536).fresh = false ∧ (stale ss 65536).clkv = true ∧ ¬ pairFits (stale ss 65536)) ∧
    (pairFits (stale ss 65537) ∧ tuningWord .shiftScaled 65537 (recipOf 65537 .shiftScaled)
      (pairShift 65537 .shiftScaled) = .ok 4094#32) ∧
    (pairFits (stale mx 180000000) ∧ tuningWord .maxPrecision 180000000 (recipOf 180000000 .maxPrecision)
      (pairShift 180000000 .maxPrecision) = .error .errOverflow) := by
  unfold pairFits; decide

theorem witness_ShiftScaledOverflowIsUnreachable :
    fresh180.Inv ∧ fresh180.fcode = none ∧ fresh180.params.recipW = 32 ∧ 4294967295 < 2 ^ 32 ∧
    (∃ t, exec (.f2w 4294967295) fresh180 = .next t ∧ t.fcode = none) ∧
    (1 ≤ 4294967295 ∧ 2147483647 ≤ 4294967295 / 2 ∧ 0 ≤ 1 / 2) :=
  ⟨inv_fresh180, by decide, by decide, by decide, ⟨_, rfl, by decide⟩, by decide⟩

/-- f = c for a clock that overflows there, and for one above 2^31 that does not. -/
theorem witness_MaxPrecisionOverflowsExactlyAboveTheClock :
    (2 ^ 64 - 1) % 2147483648 ≤ 2 ^ 31 - 1 ∧ ¬ (2 ^ 64 - 1) % 3000000005 ≤ 2 ^ 31 - 1 ∧ 3000000005 < 2 ^ 32 ∧
    tuningWord .maxPrecision 3000000005 (recipOf 3000000005 .maxPrecision) 0 = .ok 4294967295#32 := by decide

theorem witness_TuningWordAccuracy :
    tuningWord .maxPrecision 1 (recipOf 180000000 .maxPrecision) 0 = .ok 24#32 ∧ 1 ≤ 1 ∧ 4294967295 < 2 ^ 32 ∧
    shiftOf 180000000 = 5 ∧ recipOf 180000000 .shiftScaled = 763 := by decide

theorem witness_RequestFrame :
    (∃ t, exec (.f2w 1) fresh180 = .next t ∧ fresh180.fresh = true) ∧
    (∃ t, exec (.setf 1) (idle ss) = .next t ∧ t.fcode ≠ none) ∧
    (∃ t, exec (.setf 1) (stale mx 65537) = .next t ∧ t.params.mode = .maxPrecision) :=
  ⟨⟨_, rfl, by decide⟩, ⟨_, rfl, by decide⟩, _, rfl, by decide⟩

theorem witness_SendrawFollowsItsRule :
    4294967295 < 2 ^ 32 ∧ (idle ss).fcode = none ∧ (haltedBy .errCalRange (idle ss)).fcode ≠ none := by decide

theorem witness_SetfIsF2wWithAHandoff :
    ∃ t u, exec (.f2w 1) (stale ss 180000000) = .next t ∧ exec (.setf 1) (stale ss 180000000) = .next u ∧
      t.response = some ⟨.ok, 25#65, 0#6⟩ :=
  ⟨_, _, rfl, rfl, by decide⟩

theorem witness_F2wThenSendrawIsSetf :
    ∃ t u x, exec (.f2w 1) (stale ss 180000000) = .next t ∧ t.response = some ⟨.ok, 25#65, 0#6⟩ ∧
      exec (.sendraw (25#65).toNat) t = .next u ∧ exec (.setf 1) (stale ss 180000000) = .next x :=
  ⟨_, _, _, rfl, by decide, rfl, rfl⟩

theorem witness_SetfTwiceDerivesOnce :
    ∃ t u, exec (.setf 1) (stale ss 180000000) = .next t ∧ t.fcode = none ∧ exec (.setf 1) t = .next u :=
  ⟨_, _, rfl, by decide, rfl⟩

theorem witness_ZeroCalibrationUsesTheNominalClock :
    ∃ t u, (stale ss 7).params.wf = true ∧ exec (.cal 0) (stale ss 7) = .next t ∧ exec (.setf 1) t = .next u ∧
      u.fcode = none :=
  ⟨_, _, by decide, rfl, rfl, by decide⟩

theorem witness_SendrawFrame :
    (∃ t, exec (.sendraw 7) fresh180 = .next t) ∧
    ∃ t, exec (.sendraw 7) (haltedBy .errIllegal fresh180) = .next t ∧ t.fcode ≠ none :=
  ⟨⟨_, rfl⟩, _, rfl, by decide⟩

end Sys2Proof.Tests
end

section
/-! PROOFS. The parameters of 00_scope.md R8 as integer bounds, and when a step has a next state (R25). -/

namespace Sys2Proof.Machine

/-- Legal parameters in the words of R8, on integers. -/
theorem params_wf_iff (p : Params) : p.wf = true ↔ 1 ≤ p.nominal.toNat ∧ 32 ≤ p.recipW ∧ p.recipW ≤ 65 := by
  have hn : p.nominal ≠ 0#32 ↔ 1 ≤ p.nominal.toNat := by
    rw [Nat.one_le_iff_ne_zero, ne_eq, ne_eq, ← BitVec.toNat_inj, BitVec.toNat_ofNat, Nat.zero_mod]
  simp only [Params.wf, Bool.and_eq_true, bne_iff_ne, decide_eq_true_eq, hn, and_assoc]

/-- A command always answers a next state: a fault of the core is one too (R113). -/
theorem exec_has_next (i : Instr) (s : State) : ∃ t, exec i s = .next t := by
  by_cases h : s.fcode = none
  · exact ⟨_, exec_of_running i h⟩
  · exact ⟨_, exec_of_halted i h⟩

/-- So does taking any command word, legal or reserved. -/
theorem takeCommand_has_next (w : CmdWord) (s : State) : ∃ t, takeCommand w s = .next t := by
  rcases takeCommand_cases w s with ⟨_, h⟩ | ⟨_, _, h⟩ | ⟨_, i, _, h⟩
  · exact ⟨_, h⟩
  · exact ⟨_, h⟩
  · rw [h]
    exact exec_has_next i s

theorem step_has_next {s : State} (hp : s.params.wf = true) : ∃ t, step s = .next t := by
  rcases step_cases s hp with ⟨_, h⟩ | ⟨_, _, h⟩ | ⟨w, _, _, h⟩
  · exact ⟨_, h⟩
  · exact ⟨_, h⟩
  · rw [h]
    exact takeCommand_has_next w _

theorem step_of_not_wf {s : State} (hp : ¬ s.params.wf = true) : step s = .fault .badParameters := if_neg hp

/-- Settles O11: the two clauses are `Params.wf` false and true, read through `params_wf_iff`. -/
theorem stepStopsOnlyOnIllegalParameters : Obligations.StepStopsOnlyOnIllegalParameters := by
  intro s
  constructor
  · intro hbad
    refine step_of_not_wf fun hp => ?_
    obtain ⟨hn, hlo, hhi⟩ := (params_wf_iff _).1 hp
    omega
  · intro hn hlo hhi
    exact step_has_next ((params_wf_iff _).2 ⟨hn, hlo, hhi⟩)

end Sys2Proof.Machine
end

section
/-! PROOFS. What a word presented to the core runs (10_state.md R20, R27): the decoder undoes the encoder, and a step
whose next input is the word of a command is that command. -/

namespace Sys2Proof

/-- The operand of `CAL` survives the encoder and the decoder where R50 admits it. -/
theorem sext32_ofInt {ppb : Int} (hlo : -2147483648 ≤ ppb) (hhi : ppb ≤ 2147483647) :
    sext32 (BitVec.ofInt 32 ppb) = ppb := by
  unfold sext32
  rw [BitVec.toNat_ofInt]
  split <;> omega

/-- So does the unsigned operand of the other commands. -/
theorem zext_ofNat {v : Nat} (h : v ≤ 4294967295) : zext (BitVec.ofNat 32 v) = v := by
  unfold zext
  rw [BitVec.toNat_ofNat]
  omega

/-- Decoding the word of a command that can be spelled gives the command back (R50, R51, R56). -/
theorem decode_encode {i : Instr} (h : i.wf = true) : decode (encode i) = .ok i := by
  unfold decode
  rw [opField_encode, argField_encode]
  cases i with
  | cal ppb =>
    simp only [Instr.wf, Bool.and_eq_true, decide_eq_true_eq] at h
    obtain ⟨hlo, hhi⟩ := h
    simp [Instr.opcode, Instr.argument, sext32_ofInt hlo hhi]
  | derive => simp [Instr.opcode, Instr.argument]
  | f2w f => simp [Instr.opcode, Instr.argument, zext_ofNat (of_decide_eq_true h)]
  | setf f => simp [Instr.opcode, Instr.argument, zext_ofNat (of_decide_eq_true h)]
  | sendraw v => simp [Instr.opcode, Instr.argument, zext_ofNat (of_decide_eq_true h)]

/-- The opcode table's 40-bit number of a word is the word. -/
theorem tableWord_toNat (w : CmdWord) : tableWord 40 w.toNat = w := by
  unfold tableWord
  rw [Nat.mod_eq_of_lt w.isLt, BitVec.ofNat_toNat, BitVec.setWidth_eq]

end Sys2Proof

namespace Sys2Proof.Machine

/-- Taking a word that decodes is running its command: a halted core refuses the one and the other. -/
theorem takeCommand_of_decode {w : CmdWord} {i : Instr} (hd : decode w = .ok i) (s : State) :
    takeCommand w s = exec i s := by
  rcases takeCommand_cases w s with ⟨hf, h⟩ | ⟨_, ⟨e, he⟩, _⟩ | ⟨_, j, hj, h⟩
  · rw [h, exec_of_halted i hf]
  · cases hd.symm.trans he
  · cases hd.symm.trans hj
    exact h

theorem takeCommand_of_halted {s : State} (hf : s.fcode ≠ none) (w : CmdWord) :
    takeCommand w s = .next s.refuse := by
  simp [takeCommand, (halted_iff s).2 hf]

theorem takeCommand_of_reserved {s : State} {w : CmdWord} {e : Illegal} (hf : s.fcode = none)
    (he : decode w = .error e) : takeCommand w s = .next (s.takeFault .errIllegal) := by
  simp [takeCommand, (halted_eq_false_iff s).2 hf, he]

/-- A step with nothing presented is idle (R122). -/
theorem step_of_idle {s : State} (hp : s.params.wf = true) (hi : s.input = []) : step s = .next s := by
  simp [step, hp, takeInput, hi]

/-- A step on a presented command word takes that word. -/
theorem step_of_command {s : State} {w : CmdWord} {rest : List Input} (hp : s.params.wf = true)
    (hi : s.input = .command w :: rest) : step s = takeCommand w { s with input := rest } := by
  simp [step, hp, takeInput, hi]

/-- A step on a reset event is that event. -/
theorem step_of_reset {s : State} {rest : List Input} (hp : s.params.wf = true) (hi : s.input = .reset :: rest) :
    step s = .next ({ s with input := rest } : State).takeReset := by
  simp [step, hp, takeInput, hi]

/-- Settles O8: the step takes the word, and taking a word that decodes is running its command. -/
theorem stepRunsTheDecodedCommand : Obligations.StepRunsTheDecodedCommand := by
  intro s w rest i hp hi hd
  rw [step_of_command hp hi, takeCommand_of_decode hd]

/-- Settles O9: the presented word decodes to the command it encodes, by `decode_encode`. -/
theorem presentedCommandRunsNext : Obligations.PresentedCommandRunsNext := by
  intro s i hp hi
  unfold State.withFetchWord
  rw [tableWord_toNat]
  exact stepRunsTheDecodedCommand (s.present (encode i)) _ _ i hp rfl (decode_encode hi)

end Sys2Proof.Machine
end

section
/-! PROOFS. The reset event, power-on and the status ports (10_state.md R24, R31, R33; 70_reset_and_hazards.md R123). -/

namespace Sys2Proof.Machine

theorem fcodePort_le_six (s : State) : s.fcodePort.toNat ≤ 6 := by
  unfold State.fcodePort
  cases s.fcode with
  | none => decide
  | some c => cases c <;> decide

theorem fcodePort_eq_zero_iff (s : State) : s.fcodePort = 0#4 ↔ s.fcode = none := by
  unfold State.fcodePort
  cases s.fcode with
  | none => simp
  | some c => cases c <;> decide

/-- Settles O19: the level `fault` and FCODE's port both tell whether a fault is recorded. -/
theorem statusPortsShowTheRegisters : Obligations.StatusPortsShowTheRegisters := by
  intro s
  have hfault : s.halted = true ↔ s.fcodePort ≠ 0#4 := (halted_iff s).trans (fcodePort_eq_zero_iff s).not.symm
  refine ⟨rfl, rfl, rfl, rfl, fcodePort_le_six s, ?_, ?_, hfault, fcodePort_eq_zero_iff s⟩
  · intro hm
    simp [State.statusPorts, State.shiftPort, hm]
  · intro hm
    simp [State.statusPorts, State.shiftPort, hm]

/-- Settles O15: the step is `takeReset`, which writes the registers as `powerOn` does. -/
theorem resetEventEffect : Obligations.ResetEventEffect := fun _ _ hp hi =>
  ⟨_, step_of_reset hp hi, rfl, rfl, rfl, rfl, rfl, rfl, rfl, rfl, rfl, rfl⟩

end Sys2Proof.Machine
end

section
/-! PROOFS. The invariants of 10_state.md R19 and R35: each operation of the model keeps them, so every step does. -/

namespace Sys2Proof.Machine

/-- Where no clock and no pair is valid, only the widths remain of the invariants. -/
theorem inv_of_no_clock {s : State} (hp : s.params.wf = true) (hf : s.fresh = false) (hc : s.clkv = false)
    (hr : s.recip.toNat < 2 ^ s.params.recipWidth) (hs : s.params.mode = .maxPrecision → s.shift = 0#6) : s.Inv where
  params_legal := hp
  fresh_clock  := by simp [hf]
  clock_pos    := by simp [hc]
  fresh_recip  := by simp [hf]
  fresh_shift  := by simp [hf]
  recip_width  := hr
  shift_max    := hs

/-- The unspecified RECIP fits the register's own width (R16, R33). -/
theorem resetRecip_lt (p : Params) : (State.resetRecip p).toNat < 2 ^ p.recipWidth := by
  unfold State.resetRecip
  rw [BitVec.toNat_ofNat]
  exact (Nat.mod_le _ _).trans_lt (Nat.mod_lt _ (Nat.two_pow_pos _))

theorem resetShift_of_maxPrecision {p : Params} (h : p.mode = .maxPrecision) : State.resetShift p = 0#6 := by
  simp [State.resetShift, h]

theorem powerOn_inv {p : Params} (hp : p.wf = true) : (State.powerOn p).Inv :=
  inv_of_no_clock hp rfl rfl (resetRecip_lt p) resetShift_of_maxPrecision

theorem takeReset_inv {s : State} (hp : s.params.wf = true) : s.takeReset.Inv :=
  inv_of_no_clock hp rfl rfl (resetRecip_lt s.params) resetShift_of_maxPrecision

/-- The invariants read the parameters, the registers ECLK, RECIP, SHIFT and the two flags, and nothing else. -/
theorem State.Inv.of_same_registers {s t : State} (h : s.Inv) (hp : t.params = s.params) (he : t.eclk = s.eclk)
    (hr : t.recip = s.recip) (hs : t.shift = s.shift) (hf : t.fresh = s.fresh) (hc : t.clkv = s.clkv) : t.Inv := by
  obtain ⟨h1, h2, h3, h4, h5, h6, h7⟩ := h
  constructor <;> simpa only [State.clock, hp, he, hr, hs, hf, hc]

theorem State.Inv.respond {s : State} (h : s.Inv) (st : Status) (v : ValWord) (sh : ShiftWord) :
    (s.respond st v sh).Inv := h.of_same_registers rfl rfl rfl rfl rfl rfl

theorem State.Inv.transmit {s : State} (h : s.Inv) (tw : TuningWord) : (s.transmit tw).Inv :=
  h.of_same_registers rfl rfl rfl rfl rfl rfl

theorem State.Inv.takeFault {s : State} (h : s.Inv) (c : FaultCode) : (s.takeFault c).Inv :=
  h.of_same_registers rfl rfl rfl rfl rfl rfl

theorem State.Inv.withInput {s : State} (h : s.Inv) (rest : List Input) : ({ s with input := rest } : State).Inv :=
  h.of_same_registers rfl rfl rfl rfl rfl rfl

/-- `CAL` establishes a positive clock and leaves no fresh pair (R63). -/
theorem State.Inv.establishClock {s : State} (h : s.Inv) {e : Nat} (h1 : 1 ≤ e) (h2 : e < 2 ^ 32) :
    (s.establishClock e).Inv where
  params_legal := h.params_legal
  fresh_clock  := by simp
  clock_pos    := by
    intro _
    rw [State.clock, establishClock_eclk, BitVec.toNat_ofNat, Nat.mod_eq_of_lt h2]
    exact h1
  fresh_recip  := by simp
  fresh_shift  := by simp
  recip_width  := h.recip_width
  shift_max    := h.shift_max

/-- Register RECIP is at most 65 bits wide, its container (R8, R16). -/
theorem recipWidth_le {p : Params} (hp : p.wf = true) : p.recipWidth ≤ 65 := by
  obtain ⟨_, _, hw⟩ := (params_wf_iff p).1 hp
  unfold Params.recipWidth Config.recipMaxW
  cases p.mode
  · exact hw
  · exact (by decide : 64 ≤ 65)

/-- A pair of the derive step is held by RECIP as it is. -/
theorem toNat_ofNat_of_deriveStep {s : State} {p : RecipPair} (hp : s.params.wf = true) (hd : s.deriveStep = .ok p) :
    (BitVec.ofNat 65 p.recip).toNat = p.recip := by
  rw [BitVec.toNat_ofNat]
  exact Nat.mod_eq_of_lt ((deriveStep_fits hd).trans_le (Nat.pow_le_pow_right (by decide) (recipWidth_le hp)))

/-- A committed pair is that of ECLK, and fits (R73 to R75). -/
theorem State.Inv.commitPair {s : State} (h : s.Inv) {p : RecipPair} (hd : s.deriveStep = .ok p) :
    (s.commitPair p).Inv := by
  obtain ⟨hc, _, hpair⟩ := deriveStep_ok hd
  have hrecip := toNat_ofNat_of_deriveStep h.params_legal hd
  constructor
  case params_legal => exact h.params_legal
  case fresh_clock => exact fun _ => hc
  case clock_pos => exact h.clock_pos
  case fresh_recip =>
    intro _
    rw [commitPair_recip, hrecip, hpair]
    rfl
  case fresh_shift =>
    intro _ hm
    rw [commitPair_params] at hm
    have hsh : p.shift = shiftOf s.clock := by rw [hpair, pairOf, hm, pairShift]
    rw [commitPair_shift, hm, hsh]
    exact Nat.mod_eq_of_lt (shiftOf_lt s.clock)
  case recip_width =>
    rw [commitPair_recip, hrecip]
    exact deriveStep_fits hd
  case shift_max =>
    intro hm
    rw [commitPair_params] at hm
    rw [commitPair_shift, hm]
    exact h.shift_max hm

/-- A request leaves the registers as they are, or commits the pair it derived. -/
theorem State.Inv.freshPair {s : State} (h : s.Inv) {p : RecipPair} {d : Bool} (hp : s.freshPair = .ok (p, d)) :
    (if d then s.commitPair p else s).Inv := by
  rcases freshPair_ok hp with ⟨_, rfl, _⟩ | ⟨_, rfl, hd⟩
  · exact h
  · exact h.commitPair hd

theorem exec_keeps_inv {i : Instr} {s t : State} (h : s.Inv) (he : exec i s = .next t) : t.Inv := by
  rcases exec_cases he with ⟨_, rfl⟩ | ⟨_, c, rfl⟩ | ⟨_, _, e, _, hc, rfl⟩ | ⟨_, p, _, hd, rfl⟩ |
    ⟨_, _, p, d, tw, _, hp, _, rfl⟩ | ⟨_, _, p, d, tw, _, hp, _, rfl⟩ | ⟨_, v, _, rfl⟩
  · exact h.respond _ _ _
  · exact h.takeFault c
  · obtain ⟨_, _, h1, h2⟩ := calibrate_ok hc
    exact (h.establishClock h1 h2).respond _ _ _
  · exact (h.commitPair hd).respond _ _ _
  · exact (h.freshPair hp).respond _ _ _
  · exact ((h.freshPair hp).transmit tw).respond _ _ _
  · exact (h.transmit _).respond _ _ _

/-- Settles O21: the reset event, a refusal, a fault and each command keep the invariants, and so does consuming an
input. -/
theorem stepKeepsTheInvariants : Obligations.StepKeepsTheInvariants := by
  intro s t h hs
  rcases step_next_cases hs with ⟨_, rfl⟩ | ⟨rest, _, rfl⟩ |
    ⟨w, rest, _, ⟨_, rfl⟩ | ⟨_, _, rfl⟩ | ⟨_, i, _, he⟩⟩
  · exact h
  · exact takeReset_inv h.params_legal
  · exact (h.withInput rest).respond _ _ _
  · exact (h.withInput rest).takeFault _
  · exact exec_keeps_inv (h.withInput rest) he

/-- Settles O20: no clock and no pair is valid at power-on, and the unspecified registers have their widths. -/
theorem powerOnMeetsTheInvariants : Obligations.PowerOnMeetsTheInvariants :=
  ⟨fun _ hp => powerOn_inv hp, powerOn_inv (by decide)⟩

end Sys2Proof.Machine
end

section
/-! PROOFS. The frame of each command (10_state.md R18, R113), and what all commands have in common: one response, the
input stream and the parameters left alone (R27, R29, R44). -/

namespace Sys2Proof.Machine

section CommitIfDerived

variable (s : State) (d : Bool) (p : RecipPair)

@[simp] theorem commitIfDerived_params : (if d then s.commitPair p else s).params = s.params := by cases d <;> rfl
@[simp] theorem commitIfDerived_eclk : (if d then s.commitPair p else s).eclk = s.eclk := by cases d <;> rfl
@[simp] theorem commitIfDerived_clkv : (if d then s.commitPair p else s).clkv = s.clkv := by cases d <;> rfl
@[simp] theorem commitIfDerived_fcode : (if d then s.commitPair p else s).fcode = s.fcode := by cases d <;> rfl
@[simp] theorem commitIfDerived_input : (if d then s.commitPair p else s).input = s.input := by cases d <;> rfl
@[simp] theorem commitIfDerived_responses : (if d then s.commitPair p else s).responses = s.responses := by
  cases d <;> rfl
@[simp] theorem commitIfDerived_handoffs : (if d then s.commitPair p else s).handoffs = s.handoffs := by
  cases d <;> rfl

end CommitIfDerived

/-- In `MAX_PRECISION` mode no pair writes SHIFT (R17, R75). -/
theorem commitPair_shift_of_maxPrecision {s : State} (hm : s.params.mode = .maxPrecision) (p : RecipPair) :
    (s.commitPair p).shift = s.shift := by
  rw [commitPair_shift, hm]

/-- A command leaves the input stream and the parameters. -/
theorem exec_frame {i : Instr} {s t : State} (h : exec i s = .next t) : t.input = s.input ∧ t.params = s.params := by
  rcases exec_cases h with ⟨_, rfl⟩ | ⟨_, _, rfl⟩ | ⟨_, _, _, _, _, rfl⟩ | ⟨_, _, _, _, rfl⟩ |
    ⟨_, _, _, _, _, _, _, _, rfl⟩ | ⟨_, _, _, _, _, _, _, _, rfl⟩ | ⟨_, _, _, rfl⟩ <;> simp

/-- Settles O32: a refusal and a fault write no register but FCODE; success writes ECLK and the flags. -/
theorem calFrame : Obligations.CalFrame := by
  intro s t ppb h
  rcases execCal_cases h with ⟨_, rfl⟩ | ⟨_, c, _, rfl⟩ | ⟨hf, e, _, rfl⟩
  · exact ⟨rfl, rfl, rfl, rfl, rfl, rfl, .inr ⟨rfl, rfl, rfl⟩⟩
  · exact ⟨rfl, rfl, rfl, rfl, rfl, rfl, .inr ⟨rfl, rfl, rfl⟩⟩
  · exact ⟨rfl, rfl, rfl, rfl, rfl, rfl, .inl hf⟩

/-- Settles O41: a refusal and a fault write no register but FCODE; success commits a pair. -/
theorem deriveFrame : Obligations.DeriveFrame := by
  intro s t h
  rcases execDerive_cases h with ⟨_, rfl⟩ | ⟨_, c, _, rfl⟩ | ⟨hf, p, _, rfl⟩
  · exact ⟨rfl, rfl, rfl, rfl, rfl, fun _ => rfl, .inr ⟨rfl, rfl, rfl, rfl⟩⟩
  · exact ⟨rfl, rfl, rfl, rfl, rfl, fun _ => rfl, .inr ⟨rfl, rfl, rfl, rfl⟩⟩
  · exact ⟨rfl, rfl, rfl, rfl, rfl, fun hm => commitPair_shift_of_maxPrecision hm p, .inl hf⟩

/-- Settles O50: a request that succeeds commits a pair only where FRESH was 0, and only `SETF` transmits. -/
theorem requestFrame : Obligations.RequestFrame := by
  intro s t f i hi h
  rcases execRequest_cases hi h with ⟨_, rfl⟩ | ⟨_, c, rfl, _⟩ | ⟨hf, p, d, tw, hp, _, ht⟩
  · exact ⟨rfl, rfl, rfl, rfl, fun _ => rfl, fun _ => ⟨rfl, rfl, rfl, rfl⟩, fun _ => rfl⟩
  · exact ⟨rfl, rfl, rfl, rfl, fun _ => rfl, fun _ => ⟨rfl, rfl, rfl, rfl⟩, fun _ => rfl⟩
  · rcases freshPair_ok hp with ⟨_, rfl, _⟩ | ⟨hstale, rfl, _⟩
    · rcases ht with ⟨rfl, rfl⟩ | ⟨rfl, rfl⟩ <;> simp
    · rcases ht with ⟨rfl, rfl⟩ | ⟨rfl, rfl⟩ <;>
        simp +contextual [hf, hstale, commitPair_shift_of_maxPrecision, -commitPair_shift]

/-- Everything `SENDRAW` can do. -/
theorem execSendraw_cases {v : Nat} {s t : State} (h : exec (.sendraw v) s = .next t) :
    (s.fcode ≠ none ∧ t = s.refuse) ∨
    (s.fcode = none ∧ t = (s.transmit (rawWord v)).respond .ok (valOf (rawWord v).toNat) 0) := by
  by_cases hf : s.fcode = none
  · rw [exec_of_running _ hf, Host.Outcome.next.injEq] at h
    exact .inr ⟨hf, h.symm⟩
  · rw [exec_of_halted _ hf, Host.Outcome.next.injEq] at h
    exact .inl ⟨hf, h.symm⟩

/-- Settles O57: neither a refusal nor a transmission writes a register. -/
theorem sendrawFrame : Obligations.SendrawFrame := by
  intro s t v h
  rcases execSendraw_cases h with ⟨_, rfl⟩ | ⟨hf, rfl⟩
  · exact ⟨rfl, rfl, rfl, rfl, rfl, fun _ => rfl⟩
  · exact ⟨rfl, rfl, rfl, rfl, rfl, fun hn => absurd hf hn⟩

/-- Settles O24: no command writes a parameter, and neither does any other input. -/
theorem parametersNeverChange : Obligations.ParametersNeverChange := by
  intro s t h
  rcases step_next_cases h with ⟨_, rfl⟩ | ⟨_, _, rfl⟩ | ⟨_, rest, _, ⟨_, rfl⟩ | ⟨_, _, rfl⟩ | ⟨_, i, _, he⟩⟩
  · rfl
  · rfl
  · rfl
  · rfl
  · exact (exec_frame he).2

end Sys2Proof.Machine
end

section
/-! PROOFS. Responses and hand-offs of a command (10_state.md R27 to R30, 20_memory.md R44, 43_transmit.md R100). -/

namespace Sys2Proof.Machine

/-- `t` is reached from `s` with exactly one response, on the port and at the record's end, that fits its field and is
empty but for its status where that is not `OK` (R29). -/
def Answered (s t : State) : Prop :=
  ∃ r, t.response = some r ∧ t.responses = s.responses ++ [r] ∧ r.val.toNat < 2 ^ s.params.valWidth ∧
    (r.status ≠ .ok → r.val = 0 ∧ r.sh = 0)

theorem refuse_answered (s : State) : Answered s s.refuse := ⟨_, rfl, rfl, Nat.two_pow_pos _, fun _ => ⟨rfl, rfl⟩⟩

theorem takeFault_answered (s : State) (c : FaultCode) : Answered s (s.takeFault c) :=
  ⟨_, rfl, rfl, Nat.two_pow_pos _, fun _ => ⟨rfl, rfl⟩⟩

/-- A success answers with any value that fits the field. -/
theorem respond_ok_answered {s u : State} {v : Nat} (hu : u.responses = s.responses) (hv : v < 2 ^ s.params.valWidth)
    (sh : ShiftWord) : Answered s (u.respond .ok (valOf v) sh) := by
  refine ⟨_, rfl, by rw [respond_responses, hu], ?_, fun hn => absurd rfl hn⟩
  rw [valOf, BitVec.toNat_ofNat]
  exact (Nat.mod_le _ _).trans_lt hv

/-- A clock and a tuning word fit the `val` field. -/
theorem lt_valWidth_of_lt {v : Nat} (h : v < 2 ^ 32) (p : Params) : v < 2 ^ p.valWidth :=
  h.trans_le (Nat.pow_le_pow_right (by decide) ((by decide : 32 ≤ 64).trans (Nat.le_max_left 64 p.recipW)))

/-- So does a reciprocal that fits RECIP. -/
theorem deriveStep_lt_valWidth {s : State} {p : RecipPair} (hd : s.deriveStep = .ok p) :
    p.recip < 2 ^ s.params.valWidth :=
  (deriveStep_fits hd).trans_le (Nat.pow_le_pow_right (by decide) (recipWidth_le_valWidth _))

theorem exec_answered {i : Instr} {s t : State} (h : exec i s = .next t) : Answered s t := by
  rcases exec_cases h with ⟨_, rfl⟩ | ⟨_, c, rfl⟩ | ⟨_, _, e, _, hc, rfl⟩ | ⟨_, p, _, hd, rfl⟩ |
    ⟨_, _, p, d, tw, _, _, _, rfl⟩ | ⟨_, _, p, d, tw, _, _, _, rfl⟩ | ⟨_, v, _, rfl⟩
  · exact refuse_answered s
  · exact takeFault_answered s c
  · obtain ⟨_, _, _, he⟩ := calibrate_ok hc
    exact respond_ok_answered rfl (lt_valWidth_of_lt he _) _
  · exact respond_ok_answered rfl (deriveStep_lt_valWidth hd) _
  · exact respond_ok_answered (by simp) (lt_valWidth_of_lt tw.isLt _) _
  · exact respond_ok_answered (by simp) (lt_valWidth_of_lt tw.isLt _) _
  · exact respond_ok_answered rfl (lt_valWidth_of_lt (rawWord v).isLt _) _

/-- Settles O26: a command always has a next state, and reaches it with one response. -/
theorem everyCommandAnswersOnce : Obligations.EveryCommandAnswersOnce := by
  intro i s
  obtain ⟨t, h⟩ := exec_has_next i s
  obtain ⟨r, hport, hrecord, _, _⟩ := exec_answered h
  exact ⟨t, r, h, hport, hrecord, exec_frame h⟩

/-- Taking a word leaves the input stream and answers once, whatever the word. -/
theorem takeCommand_answered {w : CmdWord} {s t : State} (h : takeCommand w s = .next t) :
    t.input = s.input ∧ Answered s t := by
  rcases takeCommand_cases w s with ⟨_, h'⟩ | ⟨_, _, h'⟩ | ⟨_, i, _, h'⟩ <;> rw [h'] at h
  · cases h
    exact ⟨rfl, refuse_answered s⟩
  · cases h
    exact ⟨rfl, takeFault_answered s _⟩
  · exact ⟨(exec_frame h).1, exec_answered h⟩

/-- Settles O25: a consumed word is answered once; idling and the reset event give no response and consume no word. -/
theorem oneResponsePerCommandWord : Obligations.OneResponsePerCommandWord := by
  intro s t h
  rcases step_cases s (params_wf_of_step h) with ⟨_, h'⟩ | ⟨rest, hi, h'⟩ | ⟨w, rest, hi, h'⟩ <;> rw [h'] at h
  · cases h
    exact ⟨rfl, .inl rfl⟩
  · cases h
    exact ⟨by rw [hi]; rfl, .inl rfl⟩
  · obtain ⟨hinput, r, hport, hrecord, hval⟩ := takeCommand_answered h
    have hrest : commandsIn t.input = commandsIn rest := congrArg commandsIn hinput
    have hlength : t.responses.length = s.responses.length + 1 := by simp [hrecord]
    refine ⟨?_, .inr ⟨r, hrecord, hport, hval⟩⟩
    rw [hlength, hrest, hi, commandsIn]
    omega

/-- Settles O27: of all cases of a command only the success of `SETF` and of `SENDRAW` transmits. -/
theorem onlySetfAndSendrawHandOff : Obligations.OnlySetfAndSendrawHandOff := by
  intro i s t h
  rcases exec_cases h with ⟨_, rfl⟩ | ⟨_, _, rfl⟩ | ⟨_, _, _, _, _, rfl⟩ | ⟨_, _, _, _, rfl⟩ |
    ⟨_, _, p, d, tw, _, _, _, rfl⟩ | ⟨_, f, p, d, tw, rfl, _, _, rfl⟩ | ⟨_, v, rfl, rfl⟩
  · exact .inl rfl
  · exact .inl rfl
  · exact .inl rfl
  · exact .inl rfl
  · exact .inl (by simp)
  · exact .inr ⟨.inl ⟨f, rfl⟩, tw, by cases d <;> rfl⟩
  · exact .inr ⟨.inr ⟨v, rfl⟩, rawWord v, rfl⟩

end Sys2Proof.Machine
end

section
/-! PROOFS. The flags and the fault mark along steps and runs (10_state.md R21, R22, R35; 60_exceptions.md R114;
70_reset_and_hazards.md R123, R137). -/

namespace Sys2Proof.Machine

/-- A command keeps CLKV, or is a successful `CAL` and sets it (R22). -/
theorem exec_clkv {i : Instr} {s t : State} (h : exec i s = .next t) :
    t.clkv = s.clkv ∨ (t.clkv = true ∧ t.fcode = none ∧ ∃ ppb, i = .cal ppb) := by
  rcases exec_cases h with ⟨_, rfl⟩ | ⟨_, _, rfl⟩ | ⟨hf, ppb, e, rfl, _, rfl⟩ | ⟨_, _, _, _, rfl⟩ |
    ⟨_, _, p, d, tw, _, _, _, rfl⟩ | ⟨_, _, p, d, tw, _, _, _, rfl⟩ | ⟨_, _, _, rfl⟩
  · exact .inl rfl
  · exact .inl rfl
  · exact .inr ⟨rfl, hf, ppb, rfl⟩
  · exact .inl rfl
  · exact .inl (by simp)
  · exact .inl (by simp)
  · exact .inl rfl

/-- FRESH after a request that succeeds: its pair is fresh, taken from the registers or just committed (R91). -/
theorem freshPair_fresh {s : State} {p : RecipPair} {d : Bool} (hp : s.freshPair = .ok (p, d)) :
    (if d then s.commitPair p else s).fresh = true := by
  rcases freshPair_ok hp with ⟨hf, rfl, _⟩ | ⟨_, rfl, _⟩
  · exact hf
  · rfl

/-- A command keeps FRESH, or is a successful `CAL` and clears it, or is a successful `DERIVE`, `F2W` or `SETF` and sets
it (R21). -/
theorem exec_fresh {i : Instr} {s t : State} (h : exec i s = .next t) :
    t.fresh = s.fresh ∨ (t.fresh = false ∧ t.fcode = none ∧ ∃ ppb, i = .cal ppb) ∨
    (t.fresh = true ∧ t.fcode = none ∧ (i = .derive ∨ (∃ f, i = .f2w f) ∨ ∃ f, i = .setf f)) := by
  rcases exec_cases h with ⟨_, rfl⟩ | ⟨_, _, rfl⟩ | ⟨hf, ppb, e, rfl, _, rfl⟩ | ⟨hf, _, rfl, _, rfl⟩ |
    ⟨hf, f, p, d, tw, rfl, hp, _, rfl⟩ | ⟨hf, f, p, d, tw, rfl, hp, _, rfl⟩ | ⟨_, _, _, rfl⟩
  · exact .inl rfl
  · exact .inl rfl
  · exact .inr (.inl ⟨rfl, hf, ppb, rfl⟩)
  · exact .inr (.inr ⟨rfl, hf, .inl rfl⟩)
  · exact .inr (.inr ⟨freshPair_fresh hp, by simpa using hf, .inr (.inl ⟨f, rfl⟩)⟩)
  · exact .inr (.inr ⟨freshPair_fresh hp, by simpa using hf, .inr (.inr ⟨f, rfl⟩)⟩)
  · exact .inl rfl

/-- A step keeps both flags, or is a reset event, or runs a command. -/
theorem step_flags {s t : State} (h : step s = .next t) :
    (t.clkv = s.clkv ∧ t.fresh = s.fresh) ∨
    (t.clkv = false ∧ t.fresh = false ∧ ∃ rest, s.input = .reset :: rest) ∨
    ∃ w rest i, s.input = .command w :: rest ∧ decode w = .ok i ∧ exec i { s with input := rest } = .next t := by
  rcases step_next_cases h with ⟨_, rfl⟩ | ⟨rest, hi, rfl⟩ | ⟨w, rest, hi, ⟨_, rfl⟩ | ⟨_, _, rfl⟩ | ⟨_, i, hd, he⟩⟩
  · exact .inl ⟨rfl, rfl⟩
  · exact .inr (.inl ⟨rfl, rfl, rest, hi⟩)
  · exact .inl ⟨rfl, rfl⟩
  · exact .inl ⟨rfl, rfl⟩
  · exact .inr (.inr ⟨w, rest, i, hi, hd, he⟩)

/-- Settles O59: a flag that changed rules out the cases of `step_flags`, `exec_clkv` and `exec_fresh` that keep it. -/
theorem flagsChangeOnlyWhereTheyAreWritten : Obligations.FlagsChangeOnlyWhereTheyAreWritten := by
  intro s t h
  rcases step_flags h with ⟨hc, hf⟩ | ⟨hc, hf, hi⟩ | ⟨w, rest, i, hi, hd, he⟩
  · simp +contextual [hc, hf]
  · exact ⟨fun _ _ => hi, by simp [hc], fun _ _ => .inl hi, by simp [hf]⟩
  · have hclkv := exec_clkv he
    have hfresh := exec_fresh he
    refine ⟨fun h1 h0 => ?_, fun h0 h1 => ?_, fun h1 h0 => ?_, fun h0 h1 => ?_⟩
    · rcases hclkv with hk | ⟨hk, _⟩
      · cases h0.symm.trans (hk.trans h1)
      · cases h0.symm.trans hk
    · rcases hclkv with hk | ⟨_, hok, ppb, rfl⟩
      · cases h1.symm.trans (hk.trans h0)
      · exact ⟨hok, w, rest, ppb, hi, hd⟩
    · rcases hfresh with hk | ⟨_, hok, ppb, rfl⟩ | ⟨hk, _⟩
      · cases h0.symm.trans (hk.trans h1)
      · exact .inr ⟨hok, w, rest, ppb, hi, hd⟩
      · cases h0.symm.trans hk
    · rcases hfresh with hk | ⟨hk, _⟩ | ⟨_, hok, hwho⟩
      · cases h1.symm.trans (hk.trans h0)
      · cases h1.symm.trans hk
      · exact ⟨hok, w, rest, i, hi, hd, hwho⟩

/-- What a halted core keeps: the fault mark, every register and the hand-offs (R114). -/
def SameMark (s t : State) : Prop :=
  t.fcode = s.fcode ∧ t.eclk = s.eclk ∧ t.recip = s.recip ∧ t.shift = s.shift ∧ t.fresh = s.fresh ∧
    t.clkv = s.clkv ∧ t.handoffs = s.handoffs

theorem SameMark.trans {s u t : State} (hsu : SameMark s u) (hut : SameMark u t) : SameMark s t := by
  obtain ⟨h1, h2, h3, h4, h5, h6, h7⟩ := hsu
  obtain ⟨g1, g2, g3, g4, g5, g6, g7⟩ := hut
  exact ⟨g1.trans h1, g2.trans h2, g3.trans h3, g4.trans h4, g5.trans h5, g6.trans h6, g7.trans h7⟩

/-- A step of a halted core with no reset to come keeps all of it, and there is still no reset to come. -/
theorem step_of_halted {s t : State} (hf : s.fcode ≠ none) (hr : Input.reset ∉ s.input) (h : step s = .next t) :
    SameMark s t ∧ Input.reset ∉ t.input := by
  rcases step_next_cases h with ⟨_, rfl⟩ | ⟨rest, hi, _⟩ | ⟨w, rest, hi, ⟨_, rfl⟩ | ⟨hn, _⟩ | ⟨hn, _⟩⟩
  · exact ⟨⟨rfl, rfl, rfl, rfl, rfl, rfl, rfl⟩, hr⟩
  · exact absurd (hi ▸ List.mem_cons_self) hr
  · exact ⟨⟨rfl, rfl, rfl, rfl, rfl, rfl, rfl⟩, fun hm => hr (hi ▸ List.mem_cons_of_mem _ hm)⟩
  · exact absurd hn hf
  · exact absurd hn hf

/-- So does a run of any length. -/
theorem run_of_halted {k : Nat} {s t : State} (hf : s.fcode ≠ none) (hr : Input.reset ∉ s.input)
    (h : core.run k s = .next t) : SameMark s t := by
  induction k generalizing s with
  | zero =>
    cases (core_run_zero s).symm.trans h
    exact ⟨rfl, rfl, rfl, rfl, rfl, rfl, rfl⟩
  | succ k ih =>
    obtain ⟨u, hstep, hrun⟩ := core_run_succ_next h
    obtain ⟨hmark, hru⟩ := step_of_halted hf hr hstep
    have hfu : u.fcode ≠ none := by rwa [hmark.1]
    exact hmark.trans (ih hfu hru hrun)

/-- Settles O14, by induction on the number of steps (`run_of_halted`). -/
theorem faultMarkStaysForTheRestOfTheRun : Obligations.FaultMarkStaysForTheRestOfTheRun := by
  intro k s t c hf hr h
  have hhalted : s.fcode ≠ none := by simp [hf]
  obtain ⟨hcode, he, hrec, hsh, hfr, hc, hh⟩ := run_of_halted hhalted hr h
  exact ⟨hcode.trans hf, he, hrec, hsh, hfr, hc, hh, fun ⟨_, hnone⟩ => hhalted (hcode ▸ hnone)⟩

end Sys2Proof.Machine
end

section
/-! PROOFS. No step reads a value the spec calls unspecified or stale (10_state.md R15, R21, R33). Every operation gives
the same specified state from `s` and from `s.specified`, in which those values are blotted out; so two states with one
specified state step alike. -/

namespace Sys2Proof.Machine

section Blotting

variable (s : State)

@[simp] theorem specified_params : s.specified.params = s.params := rfl
@[simp] theorem specified_fresh : s.specified.fresh = s.fresh := rfl
@[simp] theorem specified_clkv : s.specified.clkv = s.clkv := rfl
@[simp] theorem specified_fcode : s.specified.fcode = s.fcode := rfl
@[simp] theorem specified_input : s.specified.input = s.input := rfl
@[simp] theorem specified_nominal : s.specified.nominal = s.nominal := rfl

/-- Blotting twice is blotting once. -/
@[simp] theorem specified_specified : s.specified.specified = s.specified := by
  unfold State.specified
  cases s.clkv <;> cases s.fresh <;> cases s.params.mode <;> rfl

theorem specified_clock {s : State} (h : s.clkv = true) : s.specified.clock = s.clock := by
  simp [State.specified, State.clock, h]

theorem specified_recip {s : State} (h : s.fresh = true) : s.specified.recip = s.recip := by
  simp [State.specified, h]

theorem specified_shift {s : State} (h : s.fresh = true) (hm : s.params.mode = .shiftScaled) :
    s.specified.shift = s.shift := by
  simp [State.specified, h, hm]

/-- Operations that touch no data register commute with blotting. -/
@[simp] theorem respond_specified (st : Status) (v : ValWord) (sh : ShiftWord) :
    (s.respond st v sh).specified = s.specified.respond st v sh := rfl

@[simp] theorem takeFault_specified (c : FaultCode) : (s.takeFault c).specified = s.specified.takeFault c := rfl

@[simp] theorem refuse_specified : s.refuse.specified = s.specified.refuse := rfl

@[simp] theorem transmit_specified (tw : TuningWord) : (s.transmit tw).specified = s.specified.transmit tw := rfl

/-- `CAL` overwrites ECLK and leaves RECIP and SHIFT stale. -/
@[simp] theorem establishClock_specified (e : Nat) :
    (s.specified.establishClock e).specified = (s.establishClock e).specified :=
  rfl

/-- A committed pair overwrites RECIP, and SHIFT where it is specified. -/
@[simp] theorem commitPair_specified (p : RecipPair) :
    (s.specified.commitPair p).specified = (s.commitPair p).specified := by
  unfold State.specified State.commitPair State.markFresh
  cases s.clkv <;> cases s.params.mode <;> simp

/-- The derive step reads ECLK only where `CLKV = 1` (R75). -/
@[simp] theorem deriveStep_specified : s.specified.deriveStep = s.deriveStep := by
  unfold State.deriveStep
  cases hc : s.clkv
  · simp [hc]
  · simp [hc, specified_clock hc]

/-- `tuning_word` does not read the shift in `MAX_PRECISION` mode (R86). -/
theorem tuningWord_maxPrecision_shift (f r sh sh' : Nat) :
    tuningWord .maxPrecision f r sh = tuningWord .maxPrecision f r sh' := rfl

/-- The word of a fresh pair reads no blotted register. -/
theorem tuningWord_specified {s : State} (h : s.fresh = true) (f : Nat) :
    tuningWord s.params.mode f s.specified.recip.toNat s.specified.shift.toNat =
      tuningWord s.params.mode f s.recip.toNat s.shift.toNat := by
  rw [specified_recip h]
  cases hm : s.params.mode
  · rw [specified_shift h hm]
  · exact tuningWord_maxPrecision_shift _ _ _ _

/-- `F2W` and `SETF` read RECIP and SHIFT only where `FRESH = 1`, and ECLK only in the derive step (R91). -/
theorem requestWord_specified (f : Nat) (finish : TuningWord → State → State)
    (hfin : ∀ tw u, (finish tw u).specified = finish tw u.specified) :
    (s.specified.requestWord f finish).specified = (s.requestWord f finish).specified := by
  unfold State.requestWord State.freshPair
  rw [deriveStep_specified, specified_fresh, specified_params]
  cases hf : s.fresh with
  | true =>
    simp only [if_true, tuningWord_specified hf]
    cases tuningWord s.params.mode f s.recip.toNat s.shift.toNat <;> simp [hfin]
  | false =>
    cases s.deriveStep with
    | error c => simp
    | ok p =>
      cases htw : tuningWord s.params.mode f p.recip p.shift <;>
        simp [htw, hfin]

end Blotting

/-- Two outcomes are next states with one specified state. -/
def SameAnswer (r r' : Result) : Prop := ∃ t t', r = .next t ∧ r' = .next t' ∧ t.specified = t'.specified

theorem SameAnswer.symm {r r' : Result} (h : SameAnswer r r') : SameAnswer r' r := by
  obtain ⟨t, t', ht, ht', hs⟩ := h
  exact ⟨t', t, ht', ht, hs.symm⟩

theorem SameAnswer.trans {r r' r'' : Result} (h : SameAnswer r r') (h' : SameAnswer r' r'') : SameAnswer r r'' := by
  obtain ⟨t, u, ht, hu, hs⟩ := h
  obtain ⟨u', t', hu', ht', hs'⟩ := h'
  cases hu.symm.trans hu'
  exact ⟨t, t', ht, ht', hs.trans hs'⟩

theorem exec_specified (i : Instr) (s : State) : SameAnswer (exec i s.specified) (exec i s) := by
  by_cases hf : s.fcode = none
  · refine ⟨_, _, exec_of_running i (s := s.specified) hf, exec_of_running i hf, ?_⟩
    cases i with
    | cal ppb =>
      simp only [specified_nominal]
      cases calibrate s.nominal ppb <;> simp
    | derive =>
      simp only [deriveStep_specified]
      cases s.deriveStep <;> simp
    | f2w f => exact requestWord_specified s f _ fun _ _ => rfl
    | setf f => exact requestWord_specified s f _ fun _ _ => rfl
    | sendraw v => simp
  · exact ⟨_, _, exec_of_halted i (s := s.specified) hf, exec_of_halted i hf, by simp⟩

theorem takeCommand_specified (w : CmdWord) (s : State) : SameAnswer (takeCommand w s.specified) (takeCommand w s) := by
  rcases takeCommand_cases w s with ⟨hf, h⟩ | ⟨hf, ⟨e, he⟩, h⟩ | ⟨_, i, hd, _⟩
  · rw [h, takeCommand_of_halted (s := s.specified) hf]
    exact ⟨_, _, rfl, rfl, by simp⟩
  · rw [h, takeCommand_of_reserved (s := s.specified) hf he]
    exact ⟨_, _, rfl, rfl, by simp⟩
  · rw [takeCommand_of_decode hd, takeCommand_of_decode hd]
    exact exec_specified i s

theorem step_specified {s : State} (hp : s.params.wf = true) : SameAnswer (step s.specified) (step s) := by
  rcases step_cases s hp with ⟨hi, h⟩ | ⟨rest, hi, h⟩ | ⟨w, rest, hi, h⟩ <;> rw [h]
  · rw [step_of_idle (s := s.specified) hp hi]
    exact ⟨_, _, rfl, rfl, specified_specified s⟩
  · rw [step_of_reset (s := s.specified) hp hi]
    exact ⟨_, _, rfl, rfl, rfl⟩
  · rw [step_of_command (s := s.specified) hp hi]
    exact takeCommand_specified w { s with input := rest }

/-- Settles O23: both states step as their common specified state does. -/
theorem unspecifiedValuesAreNeverRead : Obligations.UnspecifiedValuesAreNeverRead := by
  intro s s' hp heq
  have hp' : s'.params.wf = true := by
    rw [← specified_params s', ← heq]
    exact hp
  have h : SameAnswer (step s.specified) (step s') := heq ▸ step_specified hp'
  exact (step_specified hp).symm.trans h

end Sys2Proof.Machine
end

section
/-! PROOFS. The frame as a number and its bytes as base-256 digits (20_memory.md R38). -/

namespace Sys2Proof.Machine

/-- The control byte stands above the 32 bits of the word. -/
theorem toNat_frame (tw : TuningWord) (ctrl : CtrlByte) :
    (frame tw ctrl).toNat = ctrl.toNat * 2 ^ 32 + tw.toNat := by
  rw [frame, BitVec.toNat_append, ← Nat.shiftLeft_add_eq_or_of_lt tw.isLt, Nat.shiftLeft_eq]

/-- Byte `i` is digit `i` of the frame in base 256. -/
theorem toNat_frameByte (fr : Frame) (i : Nat) : (frameByte fr i).toNat = fr.toNat / 2 ^ (8 * i) % 256 := by
  rw [frameByte, BitVec.extractLsb'_toNat, Nat.shiftRight_eq_div_pow]

/-- The first four bytes are the word's, whatever the control byte. -/
theorem toNat_frameByte_frame_of_lt (tw : TuningWord) (ctrl : CtrlByte) {i : Nat} (hi : i < 4) :
    (frameByte (frame tw ctrl) i).toNat = tw.toNat / 2 ^ (8 * i) % 256 := by
  rw [toNat_frameByte, toNat_frame]
  interval_cases i <;> omega

/-- The fifth byte is the control byte. -/
theorem frameByte_frame_four (tw : TuningWord) (ctrl : CtrlByte) : frameByte (frame tw ctrl) 4 = ctrl := by
  apply BitVec.eq_of_toNat_eq
  rw [toNat_frameByte, toNat_frame]
  have htw := tw.isLt
  have hctrl := ctrl.isLt
  omega

/-- Settles O58: the four bytes of the word are its base-256 digits, the top one below 256 already, and the fifth is the
control byte. -/
theorem frameIsFiveBytesLeastSignificantFirst : Obligations.FrameIsFiveBytesLeastSignificantFirst := by
  refine ⟨fun tw ctrl => ⟨toNat_frame tw ctrl, ?_⟩, by decide⟩
  have htop : tw.toNat / 2 ^ 24 < 256 := Nat.div_lt_of_lt_mul tw.isLt
  simpa [frameBytes, toNat_frameByte_frame_of_lt, frameByte_frame_four] using htop

end Sys2Proof.Machine
end

section
/-! PROOFS. The encoding of 30_encoding.md: the decoder opcode by opcode (R51), the decoder and the encoder as inverses of
each other (R50, R56), the rows of the opcode table (R52), and what the assembler gives and refuses (R55 to R57). -/

namespace Sys2Proof
open Expected

/-- `sext_32` is the library's two's-complement reading. -/
theorem sext32_eq_toInt (arg : ArgField) : sext32 arg = arg.toInt := by
  rw [sext32, BitVec.toInt_eq_toNat_cond]
  split <;> split <;> omega

/-- The range of `ppb` in the words of R50. -/
theorem cal_wf_iff (ppb : Int) : (Instr.cal ppb).wf = true ↔ -2 ^ 31 ≤ ppb ∧ ppb < 2 ^ 31 := by
  simp only [Instr.wf, Bool.and_eq_true, decide_eq_true_eq]
  omega

theorem decode_of_op_cal {w : CmdWord} (h : opField w = 0x01#8) : decode w = .ok (.cal (sext32 (argField w))) := by
  simp [decode, h]

theorem decode_of_op_derive {w : CmdWord} (h : opField w = 0x02#8) (ha : argField w = 0#32) :
    decode w = .ok .derive := by
  simp [decode, h, ha]

theorem decode_of_op_f2w {w : CmdWord} (h : opField w = 0x03#8) : decode w = .ok (.f2w (zext (argField w))) := by
  simp [decode, h]

theorem decode_of_op_setf {w : CmdWord} (h : opField w = 0x04#8) : decode w = .ok (.setf (zext (argField w))) := by
  simp [decode, h]

theorem decode_of_op_sendraw {w : CmdWord} (h : opField w = 0x05#8) :
    decode w = .ok (.sendraw (zext (argField w))) := by
  simp [decode, h]

/-- The five conditions of R51 under which a word is legal, and the reserved words (R53), leave no word out. -/
theorem cmdWord_cases (w : CmdWord) :
    reserved w ∨ opField w = 0x01#8 ∨ (opField w = 0x02#8 ∧ argField w = 0#32) ∨ opField w = 0x03#8 ∨
      opField w = 0x04#8 ∨ opField w = 0x05#8 := by
  simp only [opField_eq_iff, argField_eq_iff, reserved, BitVec.toNat_ofNat]
  omega

theorem decode_eq_error_of_reserved {w : CmdWord} (h : reserved w) : ∃ e, decode w = .error e := by
  obtain h0 | h6 | ⟨h2, harg⟩ := h
  · have hop : opField w = 0x00#8 := (opField_eq_iff w _).2 h0
    exact ⟨.reservedOpcode (opField w), by simp [decode, hop]⟩
  · have hne : ∀ op : OpField, op.toNat < 6 → opField w ≠ op := fun op hlt heq => by
      rw [opField_eq_iff] at heq
      omega
    exact ⟨.reservedOpcode (opField w), by simp [decode, hne]⟩
  · have hop : opField w = 0x02#8 := (opField_eq_iff w _).2 h2
    have hne : argField w ≠ 0#32 := fun heq => harg ((argField_eq_iff w _).1 heq)
    exact ⟨.deriveOperand (argField w), by simp [decode, hop, hne]⟩

/-- What the decoder reads off the fields, the encoder writes into them, and the command can be spelled (R50, R51). -/
theorem fields_of_decode {w : CmdWord} {i : Instr} (hd : decode w = .ok i) :
    i.wf = true ∧ i.opcode = opField w ∧ i.argument = argField w := by
  have hz : zext (argField w) ≤ 4294967295 := Nat.le_of_lt_succ (argField w).isLt
  have hzarg : BitVec.ofNat 32 (zext (argField w)) = argField w := by
    rw [zext, BitVec.ofNat_toNat, BitVec.setWidth_eq]
  rcases cmdWord_cases w with hr | h | ⟨h, ha⟩ | h | h | h
  · obtain ⟨e, he⟩ := decode_eq_error_of_reserved hr
    cases hd.symm.trans he
  · cases hd.symm.trans (decode_of_op_cal h)
    rw [sext32_eq_toInt]
    exact ⟨(cal_wf_iff _).2 ⟨BitVec.le_toInt _, BitVec.toInt_lt⟩, h.symm, BitVec.ofInt_toInt⟩
  · cases hd.symm.trans (decode_of_op_derive h ha)
    exact ⟨rfl, h.symm, ha.symm⟩
  · cases hd.symm.trans (decode_of_op_f2w h)
    exact ⟨decide_eq_true hz, h.symm, hzarg⟩
  · cases hd.symm.trans (decode_of_op_setf h)
    exact ⟨decide_eq_true hz, h.symm, hzarg⟩
  · cases hd.symm.trans (decode_of_op_sendraw h)
    exact ⟨decide_eq_true hz, h.symm, hzarg⟩

/-- The decoder rejects the reserved words and no others (R51, R53). -/
theorem decode_eq_error_iff (w : CmdWord) : (∃ e, decode w = .error e) ↔ reserved w := by
  refine ⟨fun ⟨e, he⟩ => ?_, decode_eq_error_of_reserved⟩
  rcases cmdWord_cases w with hr | h | ⟨h, ha⟩ | h | h | h
  · exact hr
  · cases he.symm.trans (decode_of_op_cal h)
  · cases he.symm.trans (decode_of_op_derive h ha)
  · cases he.symm.trans (decode_of_op_f2w h)
  · cases he.symm.trans (decode_of_op_setf h)
  · cases he.symm.trans (decode_of_op_sendraw h)

/-- The mask of a row with a free operand compares the opcode fields only (R52). -/
theorem opField_of_and_mask {w v : CmdWord} (h : w &&& 0xFF00000000#40 = v) : opField w = opField v := by
  have hm : (0xFF00000000#40).extractLsb' 32 8 = BitVec.allOnes 8 := by decide
  rw [← h, opField, opField, BitVec.extractLsb'_and, hm, BitVec.and_allOnes]

theorem assemble_eq_none_iff (i : Instr) : assemble i = none ↔ ¬ i.wf = true := by
  unfold assemble
  split <;> simp_all

/-- The word the assembler gives is `op * 2^32 + trunc_32(operand)` (R56). -/
theorem toNat_of_assemble {i : Instr} {w : CmdWord} (h : assemble i = some w) :
    w.toNat = i.opcode.toNat * 2 ^ 32 + i.argument.toNat := by
  obtain ⟨_, hw⟩ := (assemble_eq_some_iff i w).1 h
  rw [← hw, encode_toNat]

/-- `CAL` assembles for the operands of 32 signed bits, to the two's-complement value of the operand. -/
theorem assemble_cal (ppb : Int) : (assemble (.cal ppb) = none ↔ ppb < -2 ^ 31 ∨ 2 ^ 31 ≤ ppb) ∧
    ∀ w, assemble (.cal ppb) = some w → (w.toNat : Int) = 1 * 2 ^ 32 + ppb % 2 ^ 32 := by
  constructor
  · rw [assemble_eq_none_iff, cal_wf_iff]
    omega
  · intro w h
    rw [toNat_of_assemble h, Instr.opcode, Instr.argument, BitVec.toNat_ofInt, BitVec.toNat_ofNat]
    omega

theorem assemble_derive (w : CmdWord) : assemble .derive = some w ↔ w.toNat = 2 * 2 ^ 32 := by
  rw [assemble_eq_some_iff, ← BitVec.toNat_inj, encode_toNat, eq_comm (a := w.toNat)]
  exact and_iff_right rfl

/-- A command with an unsigned operand `v` assembles where `v` is below 2^32, to the operand itself. -/
theorem assemble_unsigned {i : Instr} {v : Nat} (hwf : i.wf = decide (v ≤ 4294967295))
    (harg : i.argument = BitVec.ofNat 32 v) : (assemble i = none ↔ 2 ^ 32 ≤ v) ∧
    ∀ w, assemble i = some w → w.toNat = i.opcode.toNat * 2 ^ 32 + v := by
  constructor
  · rw [assemble_eq_none_iff, hwf, decide_eq_true_eq]
    omega
  · intro w h
    obtain ⟨hi, _⟩ := (assemble_eq_some_iff i w).1 h
    have hv : v ≤ 4294967295 := of_decide_eq_true (hwf ▸ hi)
    have hmod : v % 2 ^ 32 = v := Nat.mod_eq_of_lt (Nat.lt_succ_of_le hv)
    rw [toNat_of_assemble h, harg, BitVec.toNat_ofNat, hmod]

end Sys2Proof

namespace Sys2Proof.Machine

/-- Commands that can all be spelled are presented as their words, in order. -/
theorem inputsOf_of_wf {is : List Instr} (h : ∀ i ∈ is, i.wf = true) :
    inputsOf is = some (is.map fun i => .command (encode i)) := by
  induction is with
  | nil => rfl
  | cons i is ih =>
    rw [List.forall_mem_cons] at h
    obtain ⟨hi, his⟩ := h
    have ha : assemble i = some (encode i) := (assemble_eq_some_iff i _).2 ⟨hi, rfl⟩
    simp [inputsOf, ha, ih his]

/-- Settles O2: it is `decode_encode`, the operand surviving the truncation to 32 bits because it is in range. -/
theorem decodeOfEncodeIsTheCommand : Obligations.DecodeOfEncodeIsTheCommand := fun _ h => decode_encode h

/-- Settles O1: the five cases of the opcode, and rejection of what the cases leave. -/
theorem decodeFollowsTheOpcodeCase : Obligations.DecodeFollowsTheOpcodeCase := by
  intro w
  have hop (op : OpField) : w.toNat / 2 ^ 32 = op.toNat → opField w = op := (opField_eq_iff w op).2
  have hz : zext (argField w) = w.toNat % 2 ^ 32 := argField_toNat w
  refine ⟨fun h => ?_, fun h ha => ?_, fun h => ?_, fun h => ?_, fun h => ?_, decode_eq_error_iff w⟩
  · rw [decode_of_op_cal (hop 1#8 h), sext32, argField_toNat]
  · exact decode_of_op_derive (hop 2#8 h) ((argField_eq_iff w 0#32).2 ha)
  · rw [decode_of_op_f2w (hop 3#8 h), hz]
  · rw [decode_of_op_setf (hop 4#8 h), hz]
  · rw [decode_of_op_sendraw (hop 5#8 h), hz]

/-- Settles O3: a word and the word of the command it decodes to have the same two fields. -/
theorem encodeOfDecodeIsTheWord : Obligations.EncodeOfDecodeIsTheWord := by
  intro w i hd
  obtain ⟨hwf, hop, harg⟩ := fields_of_decode hd
  exact ⟨hwf, cmdWord_ext ((opField_encode i).trans hop) ((argField_encode i).trans harg)⟩

/-- Settles O4: a row's mask and match fix the opcode, and for `DERIVE` the whole word. -/
theorem tableRowSelectsItsCommand : Obligations.TableRowSelectsItsCommand := by
  intro w
  refine ⟨fun h => ?_, fun h => ?_, fun h => ?_, fun h => ?_, fun h => ?_⟩
  · rw [← sext32_eq_toInt]
    exact decode_of_op_cal (opField_of_and_mask h)
  · have hw : w = 0x0200000000#40 := (BitVec.and_allOnes (x := w)).symm.trans h
    subst hw
    exact decode_of_op_derive rfl rfl
  · exact decode_of_op_f2w (opField_of_and_mask h)
  · exact decode_of_op_setf (opField_of_and_mask h)
  · exact decode_of_op_sendraw (opField_of_and_mask h)

/-- Settles O5: the assembler's word is the encoder's, and it refuses what is not well formed. -/
theorem assemblerRefusesRatherThanTruncates : Obligations.AssemblerRefusesRatherThanTruncates :=
  ⟨assemble_cal, assemble_derive, fun _ => assemble_unsigned rfl rfl, fun _ => assemble_unsigned rfl rfl,
    fun _ => assemble_unsigned rfl rfl⟩

/-- Settles O6, by running the decoder on the seven words. -/
theorem writtenOutWordsDecode : Obligations.WrittenOutWordsDecode := by
  unfold Obligations.WrittenOutWordsDecode
  decide

/-- Settles O7: both commands of the sequence can be spelled. -/
theorem initExpandsToCalThenSetf : Obligations.InitExpandsToCalThenSetf := by
  intro ppb f hlo hhi hf
  have hcal : (Instr.cal ppb).wf = true := (cal_wf_iff ppb).2 ⟨hlo, hhi⟩
  have hsetf : (Instr.setf f).wf = true := decide_eq_true (Nat.le_of_lt_succ hf)
  exact inputsOf_of_wf (is := initSequence ppb f) (by simp [initSequence, hcal, hsetf])

end Sys2Proof.Machine
end

section
/-! PROOFS. The calibration family (40_calibration.md R61 to R68): `eff_clock` on integers, `CAL` arm by arm, and the pair
that a `CAL` leaves stale. -/

namespace Sys2Proof.Machine
open Expected

/-- `k = 10^9 - ppb` with the constant written out (R10, R63). -/
theorem calFactor_eq (ppb : Int) : calFactor ppb = 1000000000 - ppb := rfl

/-- `eff_clock` is the quotient of R62 on integers, where `k` is positive. -/
theorem cast_effClock (nominal : Nat) {ppb : Int} (hk : 0 < calFactor ppb) :
    (effClock nominal ppb : Int) = (nominal : Int) * (1000000000 - ppb) / 1000000000 := by
  have hcast : ((calFactor ppb).toNat : Int) = 1000000000 - ppb := Int.toNat_of_nonneg hk.le
  rw [effClock, Int.natCast_ediv, Int.natCast_mul, hcast]
  rfl

/-- Settles O33: `k` is at most 10^9 + 2^31, which bounds the product, and that bounds the quotient. -/
theorem calibrationFitsItsWidths : Obligations.CalibrationFitsItsWidths := by
  intro nominal ppb hn hlo _
  have hk : (calFactor ppb).toNat ≤ 3147483648 := by
    rw [calFactor_eq]
    omega
  have hprod : nominal * (calFactor ppb).toNat ≤ 2 ^ 32 * 3147483648 := Nat.mul_le_mul hn.le hk
  exact ⟨hprod.trans_lt (by decide), (Nat.div_le_div_right hprod).trans_lt (by decide)⟩

/-- Zero parts per billion leave the clock as it is. -/
theorem effClock_zero (nominal : Nat) : effClock nominal 0 = nominal :=
  Nat.mul_div_cancel nominal (by decide : 0 < Config.giga)

theorem calibrate_of_factor_nonpos (nominal : Nat) {ppb : Int} (hk : calFactor ppb ≤ 0) :
    calibrate nominal ppb = .error .errCalZero := if_pos hk

theorem calibrate_of_zero {nominal : Nat} {ppb : Int} (h : effClock nominal ppb = 0) :
    calibrate nominal ppb = .error .errCalZero := by
  simp [calibrate, h]

theorem calibrate_of_too_fast {nominal : Nat} {ppb : Int} (hk : 0 < calFactor ppb)
    (h : 2 ^ 32 ≤ effClock nominal ppb) : calibrate nominal ppb = .error .errCalRange := by
  rcases calibrate_cases nominal ppb with ⟨hneg, _⟩ | ⟨_, hzero, _⟩ | ⟨_, _, hc⟩ | ⟨_, _, hlt, _⟩
  · omega
  · omega
  · exact hc
  · omega

theorem calibrate_of_in_range {nominal : Nat} {ppb : Int} (hk : 0 < calFactor ppb) (h1 : 1 ≤ effClock nominal ppb)
    (h2 : effClock nominal ppb < 2 ^ 32) : calibrate nominal ppb = .ok (effClock nominal ppb) := by
  rcases calibrate_cases nominal ppb with ⟨hneg, _⟩ | ⟨_, hzero, _⟩ | ⟨_, hge, _⟩ | ⟨_, _, _, hc⟩
  · omega
  · omega
  · omega
  · exact hc

/-- `CAL 0` establishes a legal nominal clock (R67). -/
theorem calibrate_zero {nominal : Nat} (h1 : 1 ≤ nominal) (h2 : nominal < 2 ^ 32) :
    calibrate nominal 0 = .ok nominal := by
  have h := calibrate_of_in_range (nominal := nominal) (ppb := 0) (by decide)
  rw [effClock_zero] at h
  exact h h1 h2

/-- A fault is the entry of R113 written field by field. -/
theorem takeFault_eq_faulted (s : State) (c : FaultCode) : s.takeFault c = faulted s c c.status := rfl

/-- A refusal is that of R114 written field by field. -/
theorem refuse_eq_refused (s : State) : s.refuse = refused s := rfl

/-- `CAL` of an operand that a test rejects. -/
theorem exec_cal_of_error {s : State} {ppb : Int} {c : FaultCode} (hf : s.fcode = none)
    (hc : calibrate s.nominal ppb = .error c) : exec (.cal ppb) s = .next (faulted s c c.status) := by
  rw [exec_of_running _ hf, ← takeFault_eq_faulted]
  simp only [hc]

/-- `CAL` of an operand that passes every test. -/
theorem exec_cal_of_ok {s : State} {ppb : Int} {e : Nat} (hf : s.fcode = none)
    (hc : calibrate s.nominal ppb = .ok e) :
    exec (.cal ppb) s = .next ((s.establishClock e).respond .ok (valOf e) 0) := by
  rw [exec_of_running _ hf]
  simp only [hc]

/-- Settles O29: the integer quotient of the statement is `eff_clock` (`cast_effClock`), and each arm is the answer of
`calibrate` where its tests come out so. -/
theorem calFollowsItsRule : Obligations.CalFollowsItsRule := by
  intro s ppb
  refine ⟨fun hf => ?_, fun hf hk => ?_, fun hf hk he => ?_, fun hf hk he => ?_, fun e hf hk he h1 h2 => ?_⟩
  · rw [exec_of_halted _ hf, refuse_eq_refused]
  · exact exec_cal_of_error hf (calibrate_of_factor_nonpos _ hk)
  · rw [← cast_effClock _ hk] at he
    exact exec_cal_of_error hf (calibrate_of_zero (Int.natCast_eq_zero.1 he))
  · rw [← cast_effClock _ hk] at he
    exact exec_cal_of_error hf (calibrate_of_too_fast hk (by exact_mod_cast he))
  · rw [← cast_effClock _ hk] at he
    obtain rfl : effClock s.nominal ppb = e := Int.ofNat_inj.1 he
    exact exec_cal_of_ok hf (calibrate_of_in_range hk h1 h2)

/-- A `CAL` that succeeds has established the clock `calibrate` gives. -/
theorem exec_cal_ok {s t : State} {ppb : Int} (h : exec (.cal ppb) s = .next t) (ht : t.fcode = none) :
    ∃ e, calibrate s.nominal ppb = .ok e ∧ t = (s.establishClock e).respond .ok (valOf e) 0 := by
  rcases execCal_cases h with ⟨hf, rfl⟩ | ⟨_, c, _, rfl⟩ | ⟨_, e, hc, rfl⟩
  · exact absurd ht hf
  · cases ht
  · exact ⟨e, hc, rfl⟩

/-- Settles O30: the clock established depends on NOMINAL and the operand only. -/
theorem calIsIdempotent : Obligations.CalIsIdempotent := by
  constructor
  · intro s s' t t' ppb hnom h h' ht ht'
    obtain ⟨e, hc, rfl⟩ := exec_cal_ok h ht
    obtain ⟨e', hc', rfl⟩ := exec_cal_ok h' ht'
    have hsame : s.nominal = s'.nominal := congrArg BitVec.toNat hnom
    rw [hsame] at hc
    cases hc.symm.trans hc'
    exact ⟨rfl, rfl, rfl, rfl, rfl, rfl⟩
  · intro s hp hf
    obtain ⟨hpos, _, _⟩ := (params_wf_iff _).1 hp
    refine ⟨_, exec_cal_of_ok hf (calibrate_zero hpos s.params.nominal.isLt), ?_, rfl, rfl⟩
    rw [respond_eclk, establishClock_eclk, State.nominal, BitVec.ofNat_toNat, BitVec.setWidth_eq]

/-- `DERIVE` where the derive step gives a pair. -/
theorem exec_derive_of_ok {s : State} {p : RecipPair} (hf : s.fcode = none) (hd : s.deriveStep = .ok p) :
    exec .derive s = .next ((s.commitPair p).respond .ok (valOf p.recip) (shOf p.shift)) := by
  rw [exec_of_running _ hf]
  simp only [hd]

/-- The derive step reads CLKV, ECLK and the parameters, and nothing else (R75). -/
theorem deriveStep_congr {s t : State} (hp : t.params = s.params) (he : t.eclk = s.eclk) (hc : t.clkv = s.clkv) :
    t.deriveStep = s.deriveStep := by
  rw [State.deriveStep, State.deriveStep, State.clock, State.clock, hp, he, hc]

/-- A fresh pair can be derived again: the reciprocal RECIP holds fits RECIP (R19, R76). -/
theorem State.Inv.deriveStep_of_fresh {s : State} (h : s.Inv) (hf : s.fresh = true) :
    s.deriveStep = .ok (pairOf s.clock s.params.mode) := by
  have hfits : recipFits s.params (recipOf s.clock s.params.mode) = true := by
    have hw := h.recip_width
    rw [h.fresh_recip hf] at hw
    unfold recipFits
    unfold Params.recipWidth at hw
    cases hm : s.params.mode
    · rw [hm] at hw
      exact decide_eq_true hw
    · rfl
  simp [State.deriveStep, h.fresh_clock hf, hfits]

/-- Committing the pair of ECLK over a fresh one changes neither register (R19, R76). -/
theorem State.Inv.commitPair_of_fresh {s : State} (h : s.Inv) (hf : s.fresh = true) :
    (s.commitPair (pairOf s.clock s.params.mode)).recip = s.recip ∧
    (s.commitPair (pairOf s.clock s.params.mode)).shift = s.shift := by
  constructor
  · rw [commitPair_recip, pairOf, ← h.fresh_recip hf, BitVec.ofNat_toNat, BitVec.setWidth_eq]
  · cases hm : s.params.mode
    · rw [commitPair_shift, hm, pairOf, pairShift, ← h.fresh_shift hf hm]
      rw [shOf, BitVec.ofNat_toNat, BitVec.setWidth_eq]
    · exact commitPair_shift_of_maxPrecision hm _

/-- Settles O31: with ECLK unchanged the derive step after `CAL` is that of the state before it, whose pair was fresh. -/
theorem calAlwaysInvalidates : Obligations.CalAlwaysInvalidates := by
  intro s t ppb h ht
  obtain ⟨e, _, rfl⟩ := exec_cal_ok h ht
  refine ⟨rfl, rfl, rfl, rfl, fun hinv hfresh heclk => ?_⟩
  have hsame : ((s.establishClock e).respond .ok (valOf e) 0).deriveStep = s.deriveStep :=
    deriveStep_congr rfl heclk (hinv.fresh_clock hfresh).symm
  have hd := hsame.trans (hinv.deriveStep_of_fresh hfresh)
  obtain ⟨hrecip, hshift⟩ := hinv.commitPair_of_fresh hfresh
  exact ⟨_, exec_derive_of_ok ht hd, ht, hrecip, hshift⟩

end Sys2Proof.Machine
end

section
/-! PROOFS. `shift_of` as the shift of the interval (41_reciprocal.md R70, R71), and the normaliser that finds it
(R78). -/

namespace Sys2Proof.Machine

/-- A shift that keeps a clock below 2^33 is no larger than one that takes it to 2^32. -/
theorem shift_le_of_le_mul {c a b : Nat} (ha : 2 ^ 32 ≤ c * 2 ^ a) (hb : c * 2 ^ b < 2 ^ 33) : b ≤ a := by
  by_contra hlt
  have hmono : c * 2 ^ (a + 1) ≤ c * 2 ^ b := Nat.mul_le_mul_left c (Nat.pow_le_pow_right (by decide) (by omega))
  have hdouble : c * 2 ^ (a + 1) = 2 * (c * 2 ^ a) := by ring
  omega

/-- `shift_of(c)` puts `c << s` in the interval (R70). -/
theorem shiftOf_normalises {c : Nat} (h1 : 1 ≤ c) (h2 : c < 2 ^ 33) :
    2 ^ 32 ≤ c * 2 ^ shiftOf c ∧ c * 2 ^ shiftOf c < 2 ^ 33 := by
  obtain ⟨hs, hlo, hhi⟩ := shiftOf_bounds h1 h2
  have e32 : 2 ^ (32 - shiftOf c) * 2 ^ shiftOf c = 2 ^ 32 := pow_sub_mul_pow 2 hs
  have e33 : 2 ^ (33 - shiftOf c) * 2 ^ shiftOf c = 2 ^ 33 := pow_sub_mul_pow 2 (by omega)
  rw [← e32, ← e33]
  exact ⟨Nat.mul_le_mul_right _ hlo, Nat.mul_lt_mul_of_pos_right hhi (Nat.two_pow_pos _)⟩

/-- The interval defines the shift (R70). -/
theorem shiftOf_eq_iff {c sh : Nat} (h1 : 1 ≤ c) (h2 : c < 2 ^ 33) :
    shiftOf c = sh ↔ 2 ^ 32 ≤ c * 2 ^ sh ∧ c * 2 ^ sh < 2 ^ 33 := by
  obtain ⟨hlo, hhi⟩ := shiftOf_normalises h1 h2
  constructor
  · rintro rfl
    exact ⟨hlo, hhi⟩
  · rintro ⟨hlo', hhi'⟩
    exact Nat.le_antisymm (shift_le_of_le_mul hlo' hhi) (shift_le_of_le_mul hlo hhi')

/-- `shift_of` by the position of the clock's leading bit (R70). -/
theorem shiftOf_eq_sub_log2 (c : Nat) : shiftOf c = 32 - c.log2 := by
  unfold shiftOf bitlen
  omega

/-- Settles O34: the interval is `shiftOf_eq_iff`, and `n` is the position of the leading bit. -/
theorem shiftOfIsTheNormalisingShift : Obligations.ShiftOfIsTheNormalisingShift := by
  intro c h1 h2
  obtain ⟨hlo, hhi⟩ := shiftOf_normalises h1 h2
  refine ⟨hlo, hhi, fun sh hlo' hhi' => ((shiftOf_eq_iff h1 h2).2 ⟨hlo', hhi'⟩).symm, fun n hn hn' => ?_⟩
  rw [shiftOf_eq_sub_log2, (Nat.log2_eq_iff (by omega)).2 ⟨hn, hn'⟩]

/-- The shift does not increase with the clock (R71). -/
theorem shiftOf_anti {c d : Nat} (h1 : 1 ≤ c) (hcd : c ≤ d) (h2 : d < 2 ^ 33) : shiftOf d ≤ shiftOf c := by
  obtain ⟨hlo, _⟩ := shiftOf_normalises h1 (hcd.trans_lt h2)
  obtain ⟨_, hhi⟩ := shiftOf_normalises (h1.trans hcd) h2
  exact shift_le_of_le_mul hlo ((Nat.mul_le_mul_right _ hcd).trans_lt hhi)

theorem shiftOf_eq_zero_iff {c : Nat} (h1 : 1 ≤ c) (h2 : c < 2 ^ 33) : shiftOf c = 0 ↔ 2 ^ 32 ≤ c := by
  rw [shiftOf_eq_iff h1 h2]
  omega

/-- Settles O35: each end of the range is the interval at that shift. -/
theorem shiftOfRange : Obligations.ShiftOfRange := by
  refine ⟨fun c h1 h2 => ?_, fun c d => shiftOf_anti⟩
  obtain ⟨hmax, _, _⟩ := shiftOf_bounds h1 h2
  refine ⟨hmax, ?_, ?_, shiftOf_eq_zero_iff h1 h2⟩
  · rw [shiftOf_eq_iff h1 h2]
    omega
  · rw [shiftOf_eq_iff h1 h2]
    omega

/-- Doubling a clock below 2^32 takes one off its shift: the loop of R78, once around. -/
theorem shiftOf_double {v : Nat} (h1 : 1 ≤ v) (h2 : v < 2 ^ 32) : shiftOf v = shiftOf (v * 2) + 1 := by
  obtain ⟨hlo, hhi⟩ := shiftOf_normalises (c := v * 2) (by omega) (by omega)
  have hmul : v * 2 ^ (shiftOf (v * 2) + 1) = v * 2 * 2 ^ shiftOf (v * 2) := by ring
  rw [shiftOf_eq_iff h1 (by omega), hmul]
  exact ⟨hlo, hhi⟩

/-- From any clock and count so far, the loop shifts the clock by `shift_of` and counts as much, given that many
iterations (R78). -/
theorem normaliseLoop_eq {fuel v : Nat} (s : Nat) (h1 : 1 ≤ v) (h2 : v < 2 ^ 33) (hfuel : shiftOf v ≤ fuel) :
    normaliseLoop fuel v s = (v * 2 ^ shiftOf v, s + shiftOf v) := by
  induction fuel generalizing v s with
  | zero =>
    have hzero : shiftOf v = 0 := Nat.le_zero.1 hfuel
    simp [normaliseLoop, hzero]
  | succ fuel ih =>
    rw [normaliseLoop]
    split
    next hlt =>
      have hdouble := shiftOf_double h1 hlt
      rw [ih (s + 1) (by omega) (by omega) (by omega), hdouble, Prod.mk.injEq]
      exact ⟨by ring, by omega⟩
    next hge =>
      have hzero : shiftOf v = 0 := (shiftOf_eq_zero_iff h1 h2).2 (Nat.le_of_not_lt hge)
      simp [hzero]

/-- Settles O42, by induction on the iterations (`normaliseLoop_eq`): no shift is above 32. -/
theorem normaliserFindsTheShift : Obligations.NormaliserFindsTheShift := by
  intro c h1 h2
  have h33 : c < 2 ^ 33 := by omega
  obtain ⟨hmax, _, _⟩ := shiftOf_bounds h1 h33
  rw [normalise, normaliseLoop_eq 0 h1 h33 hmax, Nat.zero_add]

end Sys2Proof.Machine
end

section
/-! PROOFS. The reciprocals as quotients (41_reciprocal.md R72 to R74), and the restoring divider that finds them
(R79). -/

namespace Sys2Proof.Machine

/-- The two bounds of a clock, multiplied up to the numerator of R72. -/
theorem recip_numerator_bounds {c : Nat} (h1 : 1 ≤ c) (h2 : c < 2 ^ 33) :
    2 ^ (32 + shiftOf c) ≤ 2 ^ (2 * shiftOf c) * c ∧ 2 ^ (2 * shiftOf c) * c < 2 ^ (33 + shiftOf c) := by
  obtain ⟨hlo, hhi⟩ := shiftOf_normalises h1 h2
  have hmul : 2 ^ (2 * shiftOf c) * c = c * 2 ^ shiftOf c * 2 ^ shiftOf c := by ring
  rw [hmul, pow_add, pow_add]
  exact ⟨Nat.mul_le_mul_right _ hlo, Nat.mul_lt_mul_of_pos_right hhi (Nat.two_pow_pos _)⟩

/-- The shift-scaled reciprocal is at most `2^(2s)` (R73). -/
theorem recipOf_shiftScaled_le {c : Nat} (h1 : 1 ≤ c) (h2 : c < 2 ^ 33) :
    recipOf c .shiftScaled ≤ 2 ^ (2 * shiftOf c) :=
  Nat.div_le_of_le_mul ((recip_numerator_bounds h1 h2).1.trans_eq (Nat.mul_comm _ _))

/-- It is at least `2^(2s - 1)` where the shift is at least 1 (R73). -/
theorem le_recipOf_shiftScaled {c : Nat} (h1 : 1 ≤ c) (h2 : c < 2 ^ 32) :
    2 ^ (2 * shiftOf c - 1) ≤ recipOf c .shiftScaled := by
  have h33 : c < 2 ^ 33 := by omega
  have hs : shiftOf c ≠ 0 := fun h0 => by
    have := (shiftOf_eq_zero_iff h1 h33).1 h0
    omega
  have hhalf : 2 ^ (2 * shiftOf c) = 2 * 2 ^ (2 * shiftOf c - 1) := (mul_pow_sub_one (by omega) 2).symm
  have hnum : 2 ^ (33 + shiftOf c) = 2 * 2 ^ (32 + shiftOf c) := by ring
  obtain ⟨_, hhi⟩ := recip_numerator_bounds h1 h33
  rw [hhalf, hnum, Nat.mul_assoc] at hhi
  exact (Nat.le_div_iff_mul_le h1).2 (by omega)

/-- It reaches `2^(2s)` exactly at the power of two its interval of clocks starts with (R73). -/
theorem recipOf_shiftScaled_eq_iff {c : Nat} (h1 : 1 ≤ c) (h2 : c < 2 ^ 33) :
    recipOf c .shiftScaled = 2 ^ (2 * shiftOf c) ↔ c = 2 ^ (32 - shiftOf c) := by
  obtain ⟨hs, hlo, _⟩ := shiftOf_bounds h1 h2
  have hnum : 2 ^ (32 + shiftOf c) = 2 ^ (32 - shiftOf c) * 2 ^ (2 * shiftOf c) := by
    rw [← pow_add]
    congr 1
    omega
  calc recipOf c .shiftScaled = 2 ^ (2 * shiftOf c)
      ↔ 2 ^ (2 * shiftOf c) ≤ recipOf c .shiftScaled := (recipOf_shiftScaled_le h1 h2).ge_iff_eq.symm
    _ ↔ 2 ^ (2 * shiftOf c) * c ≤ 2 ^ (32 + shiftOf c) := Nat.le_div_iff_mul_le h1
    _ ↔ c ≤ 2 ^ (32 - shiftOf c) := by
        rw [hnum, Nat.mul_comm]
        exact Nat.mul_le_mul_right_iff (Nat.two_pow_pos _)
    _ ↔ c = 2 ^ (32 - shiftOf c) := hlo.ge_iff_eq'

/-- It fits 32 bits exactly for the clocks above 2^16, whose shift is at most 16 (R73). -/
theorem recipOf_shiftScaled_lt_iff {c : Nat} (h1 : 1 ≤ c) (h2 : c < 2 ^ 33) :
    recipOf c .shiftScaled < 2 ^ 32 ↔ 65537 ≤ c := by
  have hfits : recipOf c .shiftScaled < 2 ^ 32 ↔ 2 ^ shiftOf c < c := by
    rw [recipOf, Nat.div_lt_iff_lt_mul h1, pow_add]
    exact Nat.mul_lt_mul_left (Nat.two_pow_pos 32)
  obtain ⟨hlo, hhi⟩ := shiftOf_normalises h1 h2
  rw [hfits]
  constructor
  · intro hlt
    by_contra hc
    have hle : c * 2 ^ shiftOf c ≤ 65536 * 2 ^ shiftOf c := Nat.mul_le_mul_right _ (by omega)
    omega
  · intro hc
    have hs : shiftOf c ≤ 16 := shift_le_of_le_mul (by omega) hhi
    have hpow : 2 ^ shiftOf c ≤ 2 ^ 16 := Nat.pow_le_pow_right (by decide) hs
    omega

/-- Settles O36, bound by bound; the shift is at most 32, so the span ends at 2^64. -/
theorem shiftScaledReciprocalSpan : Obligations.ShiftScaledReciprocalSpan := by
  intro c h1 h2
  have h33 : c < 2 ^ 33 := by omega
  obtain ⟨hmax, _, _⟩ := shiftOf_bounds h1 h33
  have htop : 2 ^ (2 * shiftOf c) < 2 ^ 65 := Nat.pow_lt_pow_right (by decide) (by omega)
  have hle := recipOf_shiftScaled_le h1 h33
  exact ⟨le_recipOf_shiftScaled h1 h2, hle, recipOf_shiftScaled_eq_iff h1 h33, recipOf_shiftScaled_lt_iff h1 h33,
    hle.trans_lt htop⟩

/-- Settles O37: a quotient is at most its dividend, and `2^64 - 1 = (2^32 + 1) * (2^32 - 1)`. -/
theorem maxPrecisionReciprocalSpan : Obligations.MaxPrecisionReciprocalSpan := by
  refine ⟨fun c _ => ⟨rfl, Nat.div_le_self _ c⟩, fun c h1 h2 => ?_, by decide⟩
  exact (Nat.le_div_iff_mul_le h1).2 (Nat.mul_le_mul_left (2 ^ 32 + 1) h2)

/-- A remainder and a quotient are known by the division they undo. -/
theorem rem_quot_unique {n c r q : Nat} (h : r + c * q = n) (hr : r < c) : (r, q) = (n % c, n / c) := by
  obtain ⟨hdiv, hmod⟩ := (Nat.div_mod_unique (by omega)).2 ⟨h, hr⟩
  rw [hdiv, hmod]

/-- One iteration of the divider appends the bit to the part of the numerator divided so far (R79). -/
theorem divideBit_eq (m : Nat) (b : Bool) {c : Nat} (hc : 1 ≤ c) :
    divideBit c b (m % c) (m / c) = ((2 * m + b.toNat) % c, (2 * m + b.toNat) / c) := by
  have hsum := Nat.mod_add_div m c
  have hrem := Nat.mod_lt m hc
  have hb := b.toNat_le
  have heven : c * (2 * (m / c)) = 2 * (c * (m / c)) := Nat.mul_left_comm c 2 _
  have hodd : c * (2 * (m / c) + 1) = 2 * (c * (m / c)) + c := by rw [Nat.mul_succ, heven]
  unfold divideBit
  split
  · exact rem_quot_unique (by omega) (by omega)
  · exact rem_quot_unique (by omega) (by omega)

/-- The leading bits of a number, one bit further (R79). -/
theorem div_two_pow_eq_append_bit (num i : Nat) :
    num / 2 ^ i = 2 * (num / 2 ^ (i + 1)) + (num.testBit i).toNat := by
  rw [Nat.toNat_testBit, Nat.pow_succ, ← Nat.div_div_eq_div_mul, Nat.div_add_mod]

/-- From the remainder and quotient of the leading bits the loop reaches those of the whole number (R79). -/
theorem divideLoop_eq (num : Nat) {c : Nat} (hc : 1 ≤ c) (i : Nat) :
    divideLoop num c i (num / 2 ^ i % c) (num / 2 ^ i / c) = (num % c, num / c) := by
  induction i with
  | zero => rw [divideLoop, Nat.pow_zero, Nat.div_one]
  | succ i ih => rw [divideLoop, divideBit_eq _ _ hc, ← div_two_pow_eq_append_bit, ih]

/-- The divider is exact: no bit of the numerator stands above its width (R79). -/
theorem restoringDivide_eq {n num c : Nat} (hc : 1 ≤ c) (hnum : num < 2 ^ n) :
    restoringDivide n num c = (num % c, num / c) := by
  have h := divideLoop_eq num hc n
  rwa [Nat.div_eq_of_lt hnum, Nat.zero_mod, Nat.zero_div] at h

/-- Settles O43: both numerators have the widths the divider is given (`restoringDivide_eq`). -/
theorem restoringDividerFindsTheQuotient : Obligations.RestoringDividerFindsTheQuotient := by
  refine ⟨fun n num c => restoringDivide_eq, fun c h1 _ => ⟨?_, ?_⟩⟩
  · rw [restoringDivide_eq h1 (Nat.pow_lt_pow_right (by decide) (by omega)), recipOf]
  · rw [restoringDivide_eq h1 (by decide), recipOf]

end Sys2Proof.Machine
end

section
/-! PROOFS. The command `DERIVE` and the pair it commits (41_reciprocal.md R75 to R77). -/

namespace Sys2Proof.Machine
open Expected

theorem recipFits_of_shiftScaled {p : Params} (hm : p.mode = .shiftScaled) (q : Nat) :
    recipFits p q = decide (q < 2 ^ p.recipW) := by
  simp [recipFits, hm]

theorem recipFits_of_maxPrecision {p : Params} (hm : p.mode = .maxPrecision) (q : Nat) : recipFits p q = true := by
  simp [recipFits, hm]

theorem deriveStep_of_no_clock {s : State} (hc : s.clkv = false) : s.deriveStep = .error .errNoClock := if_pos hc

theorem deriveStep_of_too_wide {s : State} (hc : s.clkv = true)
    (hwide : recipFits s.params (recipOf s.clock s.params.mode) = false) :
    s.deriveStep = .error .errRecipRange := by
  simp [State.deriveStep, hc, hwide]

theorem deriveStep_of_fits {s : State} (hc : s.clkv = true)
    (hfits : recipFits s.params (recipOf s.clock s.params.mode) = true) :
    s.deriveStep = .ok (pairOf s.clock s.params.mode) := by
  simp [State.deriveStep, hc, hfits]

/-- Committing a pair is the write of R75 field by field. -/
theorem commitPair_eq_withPair (s : State) (p : RecipPair) : s.commitPair p = withPair s p.recip p.shift := by
  cases hm : s.params.mode <;> simp [State.commitPair, State.markFresh, withPair, shOf, hm]

/-- `DERIVE` where the derive step faults. -/
theorem exec_derive_of_error {s : State} {c : FaultCode} (hf : s.fcode = none) (hd : s.deriveStep = .error c) :
    exec .derive s = .next (faulted s c c.status) := by
  rw [exec_of_running _ hf, ← takeFault_eq_faulted]
  simp only [hd]

/-- `DERIVE` where the reciprocal of ECLK fits RECIP: the pair of ECLK is written and answered. -/
theorem exec_derive_of_fits {s : State} (hf : s.fcode = none) (hc : s.clkv = true)
    (hfits : recipFits s.params (recipOf s.clock s.params.mode) = true) :
    exec .derive s = .next (responded
      (withPair s (recipOf s.clock s.params.mode) (pairShift s.clock s.params.mode)) .ok
      (recipOf s.clock s.params.mode) (pairShift s.clock s.params.mode)) := by
  rw [exec_derive_of_ok hf (deriveStep_of_fits hc hfits), commitPair_eq_withPair]
  rfl

/-- A clock that some shift takes to 2^32 is not 0, so the shift of its interval is `shift_of` (R70). -/
theorem shiftOf_clock_eq {s : State} {sh : Nat} (hlo : 2 ^ 32 ≤ s.clock * 2 ^ sh) (hhi : s.clock * 2 ^ sh < 2 ^ 33) :
    shiftOf s.clock = sh := by
  have hpos : 1 ≤ s.clock := Nat.pos_of_mul_pos_right ((Nat.two_pow_pos 32).trans_le hlo)
  have hlt : s.clock < 2 ^ 33 := s.eclk.isLt.trans (by decide)
  exact (shiftOf_eq_iff hpos hlt).2 ⟨hlo, hhi⟩

/-- Settles O38: each arm is the answer of the derive step where its tests come out so, the shift of the interval being
`shift_of` (`shiftOf_clock_eq`). -/
theorem deriveFollowsItsRule : Obligations.DeriveFollowsItsRule := by
  intro s
  refine ⟨fun hf => ?_, fun hf hc => ?_, fun sh hf hc hm hlo hhi => ?_, fun hf hc hm _ => ?_⟩
  · rw [exec_of_halted _ hf, refuse_eq_refused]
  · exact exec_derive_of_error hf (deriveStep_of_no_clock hc)
  · have hsh : shiftOf s.clock = sh := shiftOf_clock_eq hlo hhi
    have hq : recipOf s.clock s.params.mode = 2 ^ (32 + sh) / s.eclk.toNat := by
      rw [hm, recipOf, hsh, State.clock]
    have hps : pairShift s.clock s.params.mode = sh := by rw [hm, pairShift, hsh]
    have hfits := recipFits_of_shiftScaled hm (recipOf s.clock s.params.mode)
    rw [← hq]
    constructor
    · intro hwide
      exact exec_derive_of_error hf (deriveStep_of_too_wide hc (hfits.trans (decide_eq_false hwide.not_gt)))
    · intro hlt
      rw [exec_derive_of_fits hf hc (hfits.trans (decide_eq_true hlt)), hps]
  · have hq : recipOf s.clock s.params.mode = (2 ^ 64 - 1) / s.eclk.toNat := by rw [hm, recipOf, State.clock]
    have hps : pairShift s.clock s.params.mode = 0 := by rw [hm, pairShift]
    rw [exec_derive_of_fits hf hc (recipFits_of_maxPrecision hm _), hq, hps]

/-- A `DERIVE` that succeeds has committed and answered the pair of the derive step. -/
theorem exec_derive_ok {s t : State} (h : exec .derive s = .next t) (ht : t.fcode = none) :
    ∃ p, s.deriveStep = .ok p ∧ t = (s.commitPair p).respond .ok (valOf p.recip) (shOf p.shift) := by
  rcases execDerive_cases h with ⟨hf, rfl⟩ | ⟨_, c, _, rfl⟩ | ⟨_, p, hd, rfl⟩
  · exact absurd ht hf
  · cases ht
  · exact ⟨p, hd, rfl⟩

/-- Committing a pair once more leaves SHIFT as the first commit wrote it (R76). -/
theorem commitPair_shift_twice (s : State) (p : RecipPair) (st : Status) (v : ValWord) (sh : ShiftWord) :
    (((s.commitPair p).respond st v sh).commitPair p).shift = (s.commitPair p).shift := by
  cases hm : s.params.mode <;> simp [hm]

/-- Settles O40: both pairs are `pairOf` of the one clock and mode, and a `DERIVE` leaves all that the derive step
reads. -/
theorem deriveIsPure : Obligations.DeriveIsPure := by
  constructor
  · intro s s' t t' heclk hmode _ h h' ht ht'
    obtain ⟨p, hd, rfl⟩ := exec_derive_ok h ht
    obtain ⟨p', hd', rfl⟩ := exec_derive_ok h' ht'
    obtain ⟨_, _, hp⟩ := deriveStep_ok hd
    obtain ⟨_, _, hp'⟩ := deriveStep_ok hd'
    obtain rfl : p = p' := by rw [hp, hp', State.clock, State.clock, heclk, hmode]
    refine ⟨rfl, fun hm => ?_, rfl⟩
    rw [respond_shift, respond_shift, commitPair_shift, commitPair_shift, ← hmode, hm]
  · intro s t u h ht hu
    obtain ⟨p, hd, rfl⟩ := exec_derive_ok h ht
    have hagain := (deriveStep_congr rfl rfl rfl).trans hd
    cases (exec_derive_of_ok ht hagain).symm.trans hu
    exact ⟨ht, rfl, commitPair_shift_twice s p _ _ _, rfl, rfl⟩

/-- `t` holds the registers of `s` with a pair of the derive step committed. -/
def Refreshed (s t : State) : Prop :=
  ∃ p, s.deriveStep = .ok p ∧ t.recip = (s.commitPair p).recip ∧ t.shift = (s.commitPair p).shift ∧
    t.fresh = true ∧ t.eclk = s.eclk

theorem commitPair_refreshed {s : State} {p : RecipPair} (hd : s.deriveStep = .ok p) : Refreshed s (s.commitPair p) :=
  ⟨p, hd, rfl, rfl, rfl, rfl⟩

/-- A request leaves RECIP and SHIFT, or commits the pair it derived (R91). -/
theorem commitIfDerived_recip_shift {s : State} {p : RecipPair} {d : Bool} (hp : s.freshPair = .ok (p, d)) :
    ((if d then s.commitPair p else s).recip = s.recip ∧ (if d then s.commitPair p else s).shift = s.shift) ∨
    Refreshed s (if d then s.commitPair p else s) := by
  rcases freshPair_ok hp with ⟨_, rfl, _⟩ | ⟨_, rfl, hd⟩
  · exact .inl ⟨rfl, rfl⟩
  · exact .inr (commitPair_refreshed hd)

/-- A command leaves RECIP and SHIFT, or commits a pair of the derive step (R77). -/
theorem exec_recip_shift {i : Instr} {s t : State} (h : exec i s = .next t) :
    (t.recip = s.recip ∧ t.shift = s.shift) ∨ Refreshed s t := by
  rcases exec_cases h with ⟨_, rfl⟩ | ⟨_, _, rfl⟩ | ⟨_, _, _, _, _, rfl⟩ | ⟨_, p, _, hd, rfl⟩ |
    ⟨_, _, p, d, tw, _, hp, _, rfl⟩ | ⟨_, _, p, d, tw, _, hp, _, rfl⟩ | ⟨_, _, _, rfl⟩
  · exact .inl ⟨rfl, rfl⟩
  · exact .inl ⟨rfl, rfl⟩
  · exact .inl ⟨rfl, rfl⟩
  · exact .inr (commitPair_refreshed hd)
  · exact commitIfDerived_recip_shift hp
  · exact commitIfDerived_recip_shift hp
  · exact .inl ⟨rfl, rfl⟩

/-- A step other than a reset leaves RECIP and SHIFT, or commits a pair of the derive step (R77). -/
theorem step_recip_shift {s t : State} (h : step s = .next t) (hr : ∀ rest, s.input ≠ .reset :: rest) :
    (t.recip = s.recip ∧ t.shift = s.shift) ∨ Refreshed s t := by
  rcases step_next_cases h with ⟨_, rfl⟩ | ⟨rest, hi, _⟩ | ⟨_, rest, _, ⟨_, rfl⟩ | ⟨_, _, rfl⟩ | ⟨_, i, _, he⟩⟩
  · exact .inl ⟨rfl, rfl⟩
  · exact absurd hi (hr rest)
  · exact .inl ⟨rfl, rfl⟩
  · exact .inl ⟨rfl, rfl⟩
  · exact exec_recip_shift (s := { s with input := rest }) he

/-- A committed pair stands in the registers as the pair of ECLK (R19, R75). -/
theorem Refreshed.pair_of_clock {s t : State} (h : Refreshed s t) (hp : s.params.wf = true) :
    t.fresh = true ∧ t.eclk = s.eclk ∧ t.recip.toNat = recipOf s.clock s.params.mode ∧
    (s.params.mode = .shiftScaled → t.shift.toNat = shiftOf s.clock) ∧
    (s.params.mode = .maxPrecision → t.shift = s.shift) := by
  obtain ⟨p, hd, hrecip, hshift, hfresh, heclk⟩ := h
  obtain ⟨_, _, hpair⟩ := deriveStep_ok hd
  refine ⟨hfresh, heclk, ?_, fun hm => ?_, fun hm => ?_⟩
  · rw [hrecip, commitPair_recip, toNat_ofNat_of_deriveStep hp hd, hpair, pairOf]
  · have hsh : p.shift = shiftOf s.clock := by rw [hpair, pairOf, hm, pairShift]
    rw [hshift, commitPair_shift, hm, hsh]
    exact Nat.mod_eq_of_lt (shiftOf_lt s.clock)
  · rw [hshift, commitPair_shift_of_maxPrecision hm]

/-- Settles O22: a register that changed rules out the case of `step_recip_shift` that keeps both. -/
theorem pairIsRefreshedTogether : Obligations.PairIsRefreshedTogether := by
  intro s t h hr hchange
  rcases step_recip_shift h hr with ⟨hrecip, hshift⟩ | hpair
  · rcases hchange with hne | hne
    · exact absurd hrecip hne
    · exact absurd hshift hne
  · exact hpair.pair_of_clock (params_wf_of_step h)

end Sys2Proof.Machine
end

section
/-! PROOFS. The function `tuning_word` (42_tuning_word.md R84 to R89): where it overflows, in `MAX_PRECISION` mode
against the clock (R93), and how far its word is from the exact quotient (R94). -/

namespace Sys2Proof.Machine

/-- A request for 0 reads no pair (R87). -/
theorem tuningWord_zero (mode : Mode) (r sh : Nat) : tuningWord mode 0 r sh = .ok 0 := rfl

/-- The accumulator decides whether a request for a positive frequency has a word (R88). -/
theorem tuningWord_eq_overflow_iff {mode : Mode} {f r sh : Nat} :
    tuningWord mode f r sh = .error .errOverflow ↔ f ≠ 0 ∧ 2 ^ 64 ≤ accumulator mode f r := by
  rcases tuningWord_cases mode f r sh with ⟨hf, h⟩ | ⟨hf, hacc, h⟩ | ⟨hf, hacc, h⟩
  · exact iff_of_false (by simp [h]) fun ⟨hne, _⟩ => hne hf
  · exact iff_of_true h ⟨hf, hacc⟩
  · exact iff_of_false (by simp [h]) fun ⟨_, hge⟩ => hacc.not_ge hge

/-- A word is the shifted accumulator, truncated to 32 bits (R89). -/
theorem tuningWord_of_fits {mode : Mode} {f r sh : Nat} (hf : f ≠ 0) (hacc : accumulator mode f r < 2 ^ 64) :
    tuningWord mode f r sh = .ok (BitVec.ofNat 32 (accumulator mode f r >>> accShift mode sh)) := by
  rcases tuningWord_cases mode f r sh with ⟨h0, _⟩ | ⟨_, hge, _⟩ | ⟨_, _, h⟩
  · exact absurd h0 hf
  · omega
  · exact h

/-- The truncated word, shifted by the pair's shift or by 32 (R84, R86). -/
theorem toNat_shifted (acc n : Nat) : (BitVec.ofNat 32 (acc >>> n)).toNat = acc / 2 ^ n % 2 ^ 32 := by
  rw [BitVec.toNat_ofNat, Nat.shiftRight_eq_div_pow]

/-- In `MAX_PRECISION` mode the 32 bits hold the shifted accumulator whole (R89). -/
theorem toNat_shifted_of_lt {acc : Nat} (h : acc < 2 ^ 64) : (BitVec.ofNat 32 (acc >>> 32)).toNat = acc / 2 ^ 32 := by
  rw [toNat_shifted]
  omega

/-- Settles O44: the two modes have the accumulators and shifts of R84 and R86. -/
theorem tuningWordFormulas : Obligations.TuningWordFormulas := by
  intro f r sh
  refine ⟨fun mode => tuningWord_zero mode r sh, fun hf hacc => ?_, fun hf hacc => ?_, fun hf hacc => ?_,
    fun hf hacc => ?_⟩
  · exact tuningWord_eq_overflow_iff.2 ⟨by omega, hacc⟩
  · exact ⟨_, tuningWord_of_fits (mode := .shiftScaled) (by omega) hacc, toNat_shifted _ _⟩
  · exact tuningWord_eq_overflow_iff.2 ⟨by omega, hacc⟩
  · exact ⟨_, tuningWord_of_fits (mode := .maxPrecision) (by omega) hacc, toNat_shifted_of_lt hacc⟩

/-- A word of `MAX_PRECISION` mode is the rounded quotient of R86, for f = 0 too. -/
theorem toNat_of_tuningWord_maxPrecision {f r sh : Nat} {tw : TuningWord}
    (h : tuningWord .maxPrecision f r sh = .ok tw) : tw.toNat = (f * r + 2 ^ 31) / 2 ^ 32 := by
  rcases tuningWord_cases .maxPrecision f r sh with ⟨hf, h'⟩ | ⟨_, _, h'⟩ | ⟨_, hacc, h'⟩ <;> rw [h] at h' <;> cases h'
  · simp [hf]
  · exact toNat_shifted_of_lt hacc

/-- `MAX_PRECISION` mode overflows exactly where the sum of R86 reaches 2^64. -/
theorem tuningWord_maxPrecision_overflow_iff {f r sh : Nat} (hf : 1 ≤ f) :
    tuningWord .maxPrecision f r sh = .error .errOverflow ↔ 2 ^ 64 ≤ f * r + 2 ^ 31 := by
  rw [tuningWord_eq_overflow_iff]
  exact and_iff_right (by omega)

/-- The reciprocal of R74 undoes the division but for the remainder. -/
theorem mul_recipOf_maxPrecision (c : Nat) :
    c * recipOf c .maxPrecision + (2 ^ 64 - 1) % c = 2 ^ 64 - 1 := Nat.div_add_mod _ c

/-- The reciprocal of a 32-bit clock is above 2^32 (R74). -/
theorem le_recipOf_maxPrecision {c : Nat} (h1 : 1 ≤ c) (h2 : c < 2 ^ 32) : 2 ^ 32 + 1 ≤ recipOf c .maxPrecision := by
  obtain ⟨_, hspan, _⟩ := maxPrecisionReciprocalSpan
  exact hspan c h1 (by omega)

/-- The clock itself overflows where the remainder is small (R93 (c)). -/
theorem tuningWord_clock_overflow_iff {c : Nat} (h1 : 1 ≤ c) (sh : Nat) :
    tuningWord .maxPrecision c (recipOf c .maxPrecision) sh = .error .errOverflow ↔ (2 ^ 64 - 1) % c ≤ 2 ^ 31 - 1 := by
  have hdiv := mul_recipOf_maxPrecision c
  rw [tuningWord_maxPrecision_overflow_iff h1]
  omega

/-- A frequency above the clock overflows (R93 (b)). -/
theorem tuningWord_overflow_above_clock {c f : Nat} (h1 : 1 ≤ c) (h2 : c < 2 ^ 32) (hf : c + 1 ≤ f) (sh : Nat) :
    tuningWord .maxPrecision f (recipOf c .maxPrecision) sh = .error .errOverflow := by
  have hrecip := le_recipOf_maxPrecision h1 h2
  have hdiv := mul_recipOf_maxPrecision c
  have hmod := Nat.mod_lt (2 ^ 64 - 1) h1
  have hmul : (c + 1) * recipOf c .maxPrecision ≤ f * recipOf c .maxPrecision := Nat.mul_le_mul_right _ hf
  rw [Nat.succ_mul] at hmul
  rw [tuningWord_maxPrecision_overflow_iff (by omega)]
  omega

/-- A frequency below the clock has a word (R93 (a)). -/
theorem tuningWord_no_overflow_below_clock {c f : Nat} (h1 : 1 ≤ c) (h2 : c < 2 ^ 32) (hf : f ≤ c - 1) (sh : Nat) :
    tuningWord .maxPrecision f (recipOf c .maxPrecision) sh ≠ .error .errOverflow := by
  rcases Nat.eq_zero_or_pos f with rfl | hpos
  · rw [tuningWord_zero]
    exact nofun
  · have hrecip := maxPrecisionReciprocalSpan.2.1 c h1 (by omega)
    have hdiv := mul_recipOf_maxPrecision c
    have hmul : (f + 1) * recipOf c .maxPrecision ≤ c * recipOf c .maxPrecision := Nat.mul_le_mul_right _ (by omega)
    rw [Nat.succ_mul] at hmul
    rw [ne_eq, tuningWord_maxPrecision_overflow_iff hpos]
    omega

/-- Settles O48: below, above and at the clock, the sum of R86 is compared with `c * r`, which is `2^64 - 1` less the
remainder. -/
theorem maxPrecisionOverflowsExactlyAboveTheClock : Obligations.MaxPrecisionOverflowsExactlyAboveTheClock := by
  intro c h1 h2
  refine ⟨fun f sh hf => tuningWord_no_overflow_below_clock h1 h2 hf sh,
    fun f sh hf => tuningWord_overflow_above_clock h1 h2 hf sh, fun sh => tuningWord_clock_overflow_iff h1 sh,
    fun hc => ?_⟩
  have hmod := Nat.mod_lt (2 ^ 64 - 1) h1
  omega

/-- A `MAX_PRECISION` word is within 1.5 of the exact quotient (R94): rounding costs at most a half, and the truncated
reciprocal less than one, since no frequency above the clock has a word. -/
theorem maxPrecision_word_error {c f sh : Nat} {tw : TuningWord} (h1 : 1 ≤ c) (h2 : c < 2 ^ 32)
    (h : tuningWord .maxPrecision f (recipOf c .maxPrecision) sh = .ok tw) :
    |2 * ((tw.toNat : Int) * c - f * 2 ^ 32)| < (3 * c : Int) := by
  have hfc : f ≤ c := by
    by_contra hlt
    rw [tuningWord_overflow_above_clock h1 h2 (by omega) sh] at h
    cases h
  have hword := toNat_of_tuningWord_maxPrecision h
  have hdiv := mul_recipOf_maxPrecision c
  have hmod := Nat.mod_lt (2 ^ 64 - 1) h1
  generalize recipOf c .maxPrecision = r at hword hdiv
  generalize tw.toNat = w at hword ⊢
  generalize (2 ^ 64 - 1) % c = m at hdiv hmod
  have hround : 2 ^ 32 * w * c ≤ (f * r + 2 ^ 31) * c := Nat.mul_le_mul_right c (by omega)
  have hround' : (f * r + 2 ^ 31) * c ≤ (2 ^ 32 * w + 2 ^ 32) * c := Nat.mul_le_mul_right c (by omega)
  have hexact : f * (c * r + m + 1) = f * 2 ^ 64 := congrArg (f * ·) (by omega)
  have hlost : f * (m + 1) < 2 ^ 32 * c :=
    (Nat.mul_le_mul_left f hmod).trans_lt (Nat.mul_lt_mul_of_pos_right (hfc.trans_lt h2) h1)
  have hpos : 0 ≤ f * (m + 1) := Nat.zero_le _
  have hlow : f * 2 ^ 33 < 2 * (w * c) + 3 * c := by linarith
  have hupp : 2 * (w * c) < f * 2 ^ 33 + 3 * c := by linarith
  zify at hlow hupp
  rw [abs_lt]
  constructor <;> linarith

/-- The word of `SHIFT_SCALED` mode before truncation, for any reciprocal `r` of `2^32 * p` and any quotient `w` by `p`
(R94): the rounding bias adds at most `r / 16`, the two divisions lose at most `f` and `p`. -/
theorem shiftScaled_word_error {c f r w p : Nat} (hr : r * c ≤ 2 ^ 32 * p) (hr' : 2 ^ 32 * p ≤ (r + 1) * c)
    (hw : w * p ≤ f * r + r / 16) (hw' : f * r + r / 16 ≤ (w + 1) * p) :
    |((w : Int) * c - f * 2 ^ 32) * (p * 16)| ≤ (c * (16 * f + r + p * 16) : Int) := by
  have hbias : r / 16 * 16 * c ≤ r * c := Nat.mul_le_mul_right c (Nat.div_mul_le_self r 16)
  have hexact : f * (r * c) ≤ f * (2 ^ 32 * p) := Nat.mul_le_mul_left f hr
  have hexact' : f * (2 ^ 32 * p) ≤ f * ((r + 1) * c) := Nat.mul_le_mul_left f hr'
  have hword : w * p * c ≤ (f * r + r / 16) * c := Nat.mul_le_mul_right c hw
  have hword' : (f * r + r / 16) * c ≤ (w + 1) * p * c := Nat.mul_le_mul_right c hw'
  have hpos : 0 ≤ r / 16 * c := Nat.zero_le _
  have hlow : f * 2 ^ 32 * (p * 16) ≤ w * c * (p * 16) + c * (16 * f + r + p * 16) := by linarith
  have hupp : w * c * (p * 16) ≤ f * 2 ^ 32 * (p * 16) + c * (16 * f + r + p * 16) := by linarith
  zify at hlow hupp
  rw [abs_le]
  constructor <;> linarith

/-- Settles O49: both bounds come from the divisions of the reciprocal and of the word. -/
theorem tuningWordAccuracy : Obligations.TuningWordAccuracy := by
  refine ⟨fun c f sh tw h1 h2 => maxPrecision_word_error h1 h2, ?_⟩
  rintro c f r s h1 _ _ rfl rfl
  have hr : recipOf c .shiftScaled * c ≤ 2 ^ 32 * 2 ^ shiftOf c := by
    rw [← pow_add]
    exact Nat.div_mul_le_self _ c
  have hr' : 2 ^ 32 * 2 ^ shiftOf c ≤ (recipOf c .shiftScaled + 1) * c := by
    rw [← pow_add]
    exact (Nat.lt_mul_of_div_lt (Nat.lt_succ_self _) h1).le
  have h := shiftScaled_word_error (f := f) hr hr' (Nat.div_mul_le_self _ _)
    (Nat.lt_mul_of_div_lt (Nat.lt_succ_self _) (Nat.two_pow_pos _)).le
  rw [pow_add]
  exact_mod_cast h

end Sys2Proof.Machine
end

section
/-! PROOFS. The requests `F2W` and `SETF` arm by arm (42_tuning_word.md R87, R90 to R92): where their pair comes from,
and what becomes of it. -/

namespace Sys2Proof.Machine
open Expected

/-- While FRESH = 1 the pair of a request is the registers' (R91). -/
theorem freshPair_of_fresh {s : State} (h : s.fresh = true) :
    s.freshPair = .ok (⟨s.recip.toNat, s.shift.toNat⟩, false) := if_pos h

/-- While FRESH = 0 it is the derive step's, or its fault (R91). -/
theorem freshPair_of_stale_error {s : State} {c : FaultCode} (h : s.fresh = false) (hd : s.deriveStep = .error c) :
    s.freshPair = .error c := by
  simp [State.freshPair, h, hd]

theorem freshPair_of_stale_ok {s : State} {p : RecipPair} (h : s.fresh = false) (hd : s.deriveStep = .ok p) :
    s.freshPair = .ok (p, true) := by
  simp [State.freshPair, h, hd]

section RequestWord

variable {s : State} {f : Nat} {finish : TuningWord → State → State} {p : RecipPair} {d : Bool}

theorem requestWord_of_no_pair {c : FaultCode} (hp : s.freshPair = .error c) :
    s.requestWord f finish = s.takeFault c := by
  simp only [State.requestWord, hp]

/-- A pair derived for a request that then overflows is discarded (R90, R113). -/
theorem requestWord_of_no_word {c : FaultCode} (hp : s.freshPair = .ok (p, d))
    (hw : tuningWord s.params.mode f p.recip p.shift = .error c) : s.requestWord f finish = s.takeFault c := by
  simp only [State.requestWord, hp, hw]

theorem requestWord_of_word {tw : TuningWord} (hp : s.freshPair = .ok (p, d))
    (hw : tuningWord s.params.mode f p.recip p.shift = .ok tw) :
    s.requestWord f finish = finish tw (if d then s.commitPair p else s) := by
  simp only [State.requestWord, hp, hw]

end RequestWord

/-- The test of the derive step is that of the statements (R73, R74). -/
theorem recipFits_iff_pairFits (s : State) :
    recipFits s.params (recipOf s.clock s.params.mode) = true ↔ pairFits s := by
  unfold pairFits
  cases hm : s.params.mode
  · simp [recipFits_of_shiftScaled hm]
  · simp [recipFits_of_maxPrecision hm]

/-- `SHIFT` takes the pair's shift in `SHIFT_SCALED` mode only, where it is `shift_of` (R75). -/
theorem commitPair_pairOf_clock (s : State) :
    s.commitPair (pairOf s.clock s.params.mode) =
      withPair s (recipOf s.clock s.params.mode) (shiftOf s.clock) := by
  rw [commitPair_eq_withPair, pairOf]
  cases hm : s.params.mode
  · rfl
  · simp [withPair, hm]

/-- A command that runs `requestWord` follows the rule of R90 and R97: the arms are those of `fresh_pair` and of
`tuning_word`. -/
theorem requestRule_of_requestWord {i : Instr} {f : Nat} {done : TuningWord → State → State}
    (hrun : ∀ s : State, s.fcode = none → exec i s = .next (s.requestWord f done)) : requestRule i f done := by
  intro s
  refine ⟨fun hf => ?_, fun hf hfresh => ⟨fun tw hw => ?_, fun hw => ?_⟩, fun hf hstale hc => ?_,
    fun hf hstale hc hwide => ?_, fun hf hstale hc hfits => ?_⟩
  · rw [exec_of_halted _ hf, refuse_eq_refused]
  · rw [hrun s hf, requestWord_of_word (freshPair_of_fresh hfresh) hw]
    rfl
  · rw [hrun s hf, requestWord_of_no_word (freshPair_of_fresh hfresh) hw, takeFault_eq_faulted]
    rfl
  · have hp := freshPair_of_stale_error hstale (deriveStep_of_no_clock hc)
    rw [hrun s hf, requestWord_of_no_pair hp, takeFault_eq_faulted]
    rfl
  · have hrecip := (Bool.not_eq_true _).mp (mt (recipFits_iff_pairFits s).1 hwide)
    have hp := freshPair_of_stale_error hstale (deriveStep_of_too_wide hc hrecip)
    rw [hrun s hf, requestWord_of_no_pair hp, takeFault_eq_faulted]
    rfl
  · have hp := freshPair_of_stale_ok hstale (deriveStep_of_fits hc ((recipFits_iff_pairFits s).2 hfits))
    refine ⟨fun tw hw => ?_, fun hw => ?_⟩
    · rw [hrun s hf, requestWord_of_word hp hw, if_pos rfl, commitPair_pairOf_clock]
    · rw [hrun s hf, requestWord_of_no_word hp hw, takeFault_eq_faulted]
      rfl

/-- `F2W` answers the word and hands nothing off (R90). -/
theorem requestRule_f2w (f : Nat) : requestRule (.f2w f) f fun tw t => responded t .ok tw.toNat 0 :=
  requestRule_of_requestWord fun _ hf => exec_of_running _ hf

/-- `SETF` hands the word off and answers it (R97). -/
theorem requestRule_setf (f : Nat) : requestRule (.setf f) f fun tw t => responded (handedOff t tw) .ok tw.toNat 0 :=
  requestRule_of_requestWord fun _ hf => exec_of_running _ hf

/-- Settles O45: it is `requestRule_f2w`, the rule the two requests share. -/
theorem f2wFollowsItsRule : Obligations.F2wFollowsItsRule := requestRule_f2w

/-- What a request for 0 does, by its rule: the word is 0 without a look at the pair, which is still needed (R87). -/
theorem requestRule_zero {i : Instr} {done : TuningWord → State → State} (h : requestRule i 0 done) {s : State}
    (hf : s.fcode = none) :
    (s.fresh = true → exec i s = .next (done 0 s)) ∧
    (s.fresh = false → s.clkv = false → exec i s = .next (faulted s .errNoClock .errNoClock)) ∧
    (s.fresh = false → s.clkv = true → ¬ pairFits s → exec i s = .next (faulted s .errRecipRange .errRecipRange)) := by
  obtain ⟨_, hfresh, hclock, hrange, _⟩ := h s
  refine ⟨fun hfr => ?_, hclock hf, hrange hf⟩
  obtain ⟨hword, _⟩ := hfresh hf hfr
  exact hword 0 (tuningWord_zero _ _ _)

/-- Settles O46: both requests follow their rule at 0 (`requestRule_zero`). -/
theorem zeroFrequencyRequests : Obligations.ZeroFrequencyRequests := by
  intro s hf
  obtain ⟨hword, hclock, hrange⟩ := requestRule_zero (requestRule_f2w 0) hf
  obtain ⟨hword', hclock', hrange'⟩ := requestRule_zero (requestRule_setf 0) hf
  exact ⟨fun hfr => ⟨hword hfr, hword' hfr⟩, fun hfr hc => ⟨hclock hfr hc, hclock' hfr hc⟩,
    fun hfr hc hwide => ⟨hrange hfr hc hwide, hrange' hfr hc hwide⟩⟩

/-- An `F2W` that answers OK has computed a word on the pair it obtained, and answers it. -/
theorem exec_f2w_ok {s t : State} {f : Nat} {v : ValWord} {sh : ShiftWord} (h : exec (.f2w f) s = .next t)
    (hr : t.response = some ⟨.ok, v, sh⟩) :
    s.fcode = none ∧ ∃ p d tw, s.freshPair = .ok (p, d) ∧ tuningWord s.params.mode f p.recip p.shift = .ok tw ∧
      v = valOf tw.toNat ∧ t = (if d then s.commitPair p else s).respond .ok (valOf tw.toNat) 0 := by
  rcases execRequest_cases (.inl rfl) h with
    ⟨_, rfl⟩ | ⟨_, c, rfl, _⟩ | ⟨hf, p, d, tw, hp, hw, ⟨_, rfl⟩ | ⟨hi, _⟩⟩
  · cases hr
  · cases c <;> cases hr
  · cases hr
    exact ⟨hf, p, d, tw, hp, hw, rfl, rfl⟩
  · cases hi

/-- `SETF` where its pair has a word (R97). -/
theorem exec_setf_of_word {s : State} {f : Nat} {p : RecipPair} {d : Bool} {tw : TuningWord} (hf : s.fcode = none)
    (hp : s.freshPair = .ok (p, d)) (hw : tuningWord s.params.mode f p.recip p.shift = .ok tw) :
    exec (.setf f) s =
      .next (((if d then s.commitPair p else s).transmit tw).respond .ok (valOf tw.toNat) 0) := by
  rw [exec_of_running _ hf]
  simp only [requestWord_of_word hp hw]

/-- The word an `F2W` answers is the word a `SENDRAW` of that answer hands off. -/
theorem rawWord_valOf (tw : TuningWord) : rawWord (valOf tw.toNat).toNat = tw := by
  have hval : (valOf tw.toNat).toNat = tw.toNat := by
    rw [valOf, BitVec.toNat_ofNat]
    exact Nat.mod_eq_of_lt (tw.isLt.trans (by decide))
  rw [hval, rawWord, BitVec.ofNat_toNat, BitVec.setWidth_eq]

/-- Settles O54: `SENDRAW` hands off the word `F2W` answered (`rawWord_valOf`), which is `SETF`'s, and both ways commit
the same pair. -/
theorem f2wThenSendrawIsSetf : Obligations.F2wThenSendrawIsSetf := by
  intro s t u x f v sh ht hr hu hx
  obtain ⟨hf, p, d, tw, hp, hw, rfl, rfl⟩ := exec_f2w_ok ht hr
  cases (exec_setf_of_word hf hp hw).symm.trans hx
  rcases execSendraw_cases hu with ⟨hne, _⟩ | ⟨_, rfl⟩
  · simp [hf] at hne
  · rw [rawWord_valOf]
    exact ⟨rfl, rfl, rfl⟩

/-- The pair of a request fits register RECIP, fresh or derived (R19, R73). -/
theorem State.Inv.freshPair_recip_lt {s : State} (h : s.Inv) {p : RecipPair} {d : Bool}
    (hp : s.freshPair = .ok (p, d)) : p.recip < 2 ^ s.params.recipWidth := by
  rcases freshPair_ok hp with ⟨_, _, rfl⟩ | ⟨_, _, hd⟩
  · exact h.recip_width
  · exact deriveStep_fits hd

/-- Obtaining the pair never overflows: the derive step has faults of its own (R75). -/
theorem freshPair_ne_overflow (s : State) : s.freshPair ≠ .error .errOverflow := by
  intro h
  rcases freshPair_cases s with ⟨_, hp⟩ | ⟨_, c, hd, hp⟩ | ⟨_, _, _, hp⟩ <;> rw [h] at hp <;> cases hp
  rcases deriveStep_cases s with ⟨_, hd'⟩ | ⟨_, _, hd'⟩ | ⟨_, _, hd'⟩ <;> rw [hd] at hd' <;> cases hd'

/-- A request ends with `ERR_OVERFLOW` only where its pair has no word for it. -/
theorem tuningWord_overflow_of_exec {i : Instr} {f : Nat} {s t : State} (hi : i = .f2w f ∨ i = .setf f)
    (h : exec i s = .next t) (hf : s.fcode = none) (ht : t.fcode = some .errOverflow) :
    ∃ p d, s.freshPair = .ok (p, d) ∧ tuningWord s.params.mode f p.recip p.shift = .error .errOverflow := by
  rcases execRequest_cases hi h with
    ⟨hne, _⟩ | ⟨_, c, rfl, hp | ⟨p, d, hp, hw⟩⟩ | ⟨_, p, d, tw, _, _, ⟨_, rfl⟩ | ⟨_, rfl⟩⟩
  · exact absurd hf hne
  · cases ht
    exact absurd hp (freshPair_ne_overflow s)
  · cases ht
    exact ⟨p, d, hp, hw⟩
  · simp [hf] at ht
  · simp [hf] at ht

/-- Two factors of 32 bits leave room for the bias in the accumulator (R92). -/
theorem tuningWord_no_overflow_of_lt {f r : Nat} (hf : f < 2 ^ 32) (hr : r < 2 ^ 32) (sh : Nat) :
    tuningWord .shiftScaled f r sh ≠ .error .errOverflow := by
  have hprod : f * r ≤ (2 ^ 32 - 1) * (2 ^ 32 - 1) := Nat.mul_le_mul (by omega) (by omega)
  rw [ne_eq, tuningWord_eq_overflow_iff, accumulator, Config.biasDiv]
  omega

/-- Up to half the clock the product is at most 2^63 and the bias at most 2^60 (R92). -/
theorem tuningWord_no_overflow_of_le_half {c f : Nat} (h1 : 1 ≤ c) (h2 : c < 2 ^ 32) (hf : f ≤ c / 2) (sh : Nat) :
    tuningWord .shiftScaled f (recipOf c .shiftScaled) sh ≠ .error .errOverflow := by
  have h33 : c < 2 ^ 33 := by omega
  obtain ⟨hs, _, _⟩ := shiftOf_bounds h1 h33
  have hnum : 2 ^ (32 + shiftOf c) ≤ 2 ^ 64 := Nat.pow_le_pow_right (by decide) (by omega)
  have hrecip : recipOf c .shiftScaled ≤ 2 ^ 64 := (Nat.div_le_self _ c).trans hnum
  have hclock : c * recipOf c .shiftScaled ≤ 2 ^ 64 := (Nat.mul_div_le _ c).trans hnum
  have hprod : 2 * f * recipOf c .shiftScaled ≤ c * recipOf c .shiftScaled := Nat.mul_le_mul_right _ (by omega)
  rw [Nat.mul_assoc] at hprod
  rw [ne_eq, tuningWord_eq_overflow_iff, accumulator, Config.biasDiv]
  omega

/-- Settles O47: with `RECIP_W = 32` both factors have 32 bits; for any width, half the clock bounds the product. -/
theorem shiftScaledOverflowIsUnreachable : Obligations.ShiftScaledOverflowIsUnreachable := by
  refine ⟨fun s t f hinv hf hm hw hlt h ht => ?_, fun c f h1 h2 hhalf =>
    tuningWord_no_overflow_of_le_half h1 h2 hhalf _⟩
  have hover : ∃ p d, s.freshPair = .ok (p, d) ∧
      tuningWord s.params.mode f p.recip p.shift = .error .errOverflow := by
    rcases h with h | h
    · exact tuningWord_overflow_of_exec (.inl rfl) h hf ht
    · exact tuningWord_overflow_of_exec (.inr rfl) h hf ht
  obtain ⟨p, d, hp, hnone⟩ := hover
  have hr := hinv.freshPair_recip_lt hp
  rw [Params.recipWidth, hm, hw] at hr
  rw [hm] at hnone
  exact tuningWord_no_overflow_of_lt hlt hr _ hnone

end Sys2Proof.Machine
end

section
/-! PROOFS. The commands that transmit (43_transmit.md R97 to R104): `SENDRAW` and `SETF` arm by arm, `SETF` beside `F2W`,
`SETF` repeated and after `CAL 0`, and the control byte of every frame. -/

namespace Sys2Proof.Machine
open Expected

/-! ### The control byte (R101) -/

/-- A command hands off nothing, or one word with the control byte. -/
theorem exec_handoffs {i : Instr} {s t : State} (h : exec i s = .next t) :
    t.handoffs = s.handoffs ∨ ∃ tw, t.handoffs = s.handoffs ++ [⟨tw, s.params.ctrlByte⟩] := by
  rcases onlySetfAndSendrawHandOff i s t h with hsame | ⟨_, tw, ht⟩
  · exact .inl hsame
  · exact .inr ⟨tw, congrArg State.handoffs ht⟩

/-- So does a step, whatever the input it consumes. -/
theorem step_handoffs {s t : State} (h : step s = .next t) :
    t.handoffs = s.handoffs ∨ ∃ tw, t.handoffs = s.handoffs ++ [⟨tw, s.params.ctrlByte⟩] := by
  rcases step_next_cases h with ⟨_, rfl⟩ | ⟨_, _, rfl⟩ | ⟨_, rest, _, ⟨_, rfl⟩ | ⟨_, _, rfl⟩ | ⟨_, i, _, he⟩⟩
  · exact .inl rfl
  · exact .inl rfl
  · exact .inl rfl
  · exact .inl rfl
  · exact exec_handoffs (s := { s with input := rest }) he

/-- Settles O28: the one hand-off a step can add carries the parameter (`step_handoffs`), which no step changes. -/
theorem everyFrameCarriesTheControlByte : Obligations.EveryFrameCarriesTheControlByte := by
  intro s t hs h x hx
  rw [parametersNeverChange s t h]
  rcases step_handoffs h with hsame | ⟨tw, hmore⟩
  · exact hs x (hsame ▸ hx)
  · rw [hmore, List.mem_append, List.mem_singleton] at hx
    rcases hx with hold | rfl
    · exact hs x hold
    · rfl

/-! ### `SENDRAW` and `SETF` by their rules (R97, R98) -/

/-- The operand of `SENDRAW` is answered as it is where it has 32 bits. -/
theorem toNat_rawWord {word : Nat} (h : word < 2 ^ 32) : (rawWord word).toNat = word :=
  (BitVec.toNat_ofNat word 32).trans (Nat.mod_eq_of_lt h)

/-- `SENDRAW` of a core that is not halted (R98). -/
theorem exec_sendraw_of_running {s : State} (hf : s.fcode = none) (word : Nat) :
    exec (.sendraw word) s =
      .next ((s.transmit (rawWord word)).respond .ok (valOf (rawWord word).toNat) 0) :=
  exec_of_running _ hf

/-- Settles O52: a halted core refuses, any other transmits the operand and answers it (`toNat_rawWord`). -/
theorem sendrawFollowsItsRule : Obligations.SendrawFollowsItsRule := by
  intro s word hlt
  constructor
  · intro hf
    rw [exec_of_halted _ hf, refuse_eq_refused]
  · intro hf
    rw [exec_sendraw_of_running hf, toNat_rawWord hlt]
    rfl

/-- Settles O51: it is `requestRule_setf`, the rule `SETF` shares with `F2W`. -/
theorem setfFollowsItsRule : Obligations.SetfFollowsItsRule := requestRule_setf

/-! ### `SETF` beside `F2W` (R97) -/

/-- Whether a request faults, and on which pair and word it ends, does not depend on what it does with the word. -/
theorem requestWord_uniform (f : Nat) (s : State) :
    (∃ c, ∀ finish, s.requestWord f finish = s.takeFault c) ∨
    ∃ p, ∃ d : Bool, ∃ tw, ∀ finish, s.requestWord f finish = finish tw (if d then s.commitPair p else s) := by
  rcases requestWord_cases f (fun _ t => t) s with ⟨c, hp, _⟩ | ⟨p, d, hp, hw, _⟩ | ⟨p, d, tw, hp, hw, _⟩
  · exact .inl ⟨c, fun _ => requestWord_of_no_pair hp⟩
  · exact .inl ⟨_, fun _ => requestWord_of_no_word hp hw⟩
  · exact .inr ⟨p, d, tw, fun _ => requestWord_of_word hp hw⟩

/-- A tuning word is the low 32 bits of the `val` field that answers it. -/
theorem setWidth_valOf (tw : TuningWord) : (valOf tw.toNat).setWidth 32 = tw := by
  rw [← BitVec.ofNat_toNat]
  exact rawWord_valOf tw

/-- Settles O53: both commands refuse, both take the same fault, or both commit the same pair and answer the same word
(`requestWord_uniform`). -/
theorem setfIsF2wWithAHandoff : Obligations.SetfIsF2wWithAHandoff := by
  intro s t u f ht hu
  by_cases hf : s.fcode = none
  · rw [exec_of_running _ hf, Host.Outcome.next.injEq] at ht hu
    rcases requestWord_uniform f s with ⟨c, hreq⟩ | ⟨p, d, tw, hreq⟩
    · obtain rfl := (hreq _).symm.trans ht
      obtain rfl := (hreq _).symm.trans hu
      exact ⟨rfl, fun _ _ hr => by cases c <;> cases hr⟩
    · obtain rfl := (hreq _).symm.trans ht
      obtain rfl := (hreq _).symm.trans hu
      refine ⟨rfl, fun v sh hr => ?_⟩
      cases hr
      rw [setWidth_valOf]
      simp
  · rw [exec_of_halted _ hf, Host.Outcome.next.injEq] at ht hu
    subst ht hu
    exact ⟨rfl, fun _ _ hr => by cases hr⟩

/-! ### `SETF` repeated (R99) -/

/-- A `SETF` that ends with FCODE = 0 has computed a word on the pair it obtained, and handed it off. -/
theorem exec_setf_ok {s t : State} {f : Nat} (h : exec (.setf f) s = .next t) (ht : t.fcode = none) :
    ∃ p d tw, s.freshPair = .ok (p, d) ∧ tuningWord s.params.mode f p.recip p.shift = .ok tw ∧
      t = ((if d then s.commitPair p else s).transmit tw).respond .ok (valOf tw.toNat) 0 := by
  rcases execRequest_cases (.inr rfl) h with
    ⟨hf, rfl⟩ | ⟨_, c, rfl, _⟩ | ⟨_, p, d, tw, hp, hw, ⟨hi, _⟩ | ⟨_, rfl⟩⟩
  · exact absurd ht hf
  · cases ht
  · cases hi
  · exact ⟨p, d, tw, hp, hw, rfl⟩

/-- No reciprocal is above 2^64, whatever the clock and the mode (R73, R74). -/
theorem recipOf_le (c : Nat) (mode : Mode) : recipOf c mode ≤ 2 ^ 64 := by
  cases mode with
  | shiftScaled =>
    have hs : shiftOf c ≤ 32 := by
      rw [shiftOf_eq_sub_log2]
      omega
    exact (Nat.div_le_self _ c).trans (Nat.pow_le_pow_right (by decide) (by omega))
  | maxPrecision => exact (Nat.div_le_self _ c).trans (by decide)

/-- The registers hold a committed pair of the derive step as far as `tuning_word` reads it (R75, R86). -/
theorem tuningWord_commitPair {s : State} {p : RecipPair} (hd : s.deriveStep = .ok p) (f : Nat) :
    tuningWord s.params.mode f (s.commitPair p).recip.toNat (s.commitPair p).shift.toNat =
      tuningWord s.params.mode f p.recip p.shift := by
  obtain ⟨_, _, rfl⟩ := deriveStep_ok hd
  have hrecip : (s.commitPair (pairOf s.clock s.params.mode)).recip.toNat = recipOf s.clock s.params.mode :=
    Nat.mod_eq_of_lt ((recipOf_le _ _).trans_lt (by decide))
  rw [hrecip]
  cases hm : s.params.mode with
  | shiftScaled =>
    have hshift : (s.commitPair (pairOf s.clock .shiftScaled)).shift.toNat = shiftOf s.clock := by
      rw [commitPair_shift, hm]
      exact Nat.mod_eq_of_lt (shiftOf_lt _)
    rw [hshift]
    rfl
  | maxPrecision => exact tuningWord_maxPrecision_shift _ _ _ _

/-- After a request has its pair, the registers give the same word again (R99). -/
theorem tuningWord_of_freshPair {s : State} {p : RecipPair} {d : Bool} (hp : s.freshPair = .ok (p, d)) (f : Nat) :
    tuningWord s.params.mode f (if d then s.commitPair p else s).recip.toNat
        (if d then s.commitPair p else s).shift.toNat =
      tuningWord s.params.mode f p.recip p.shift := by
  rcases freshPair_ok hp with ⟨_, rfl, rfl⟩ | ⟨_, rfl, hd⟩
  · rfl
  · exact tuningWord_commitPair hd f

theorem commitIfDerived_deriveCount_le (s : State) (d : Bool) (p : RecipPair) :
    (if d then s.commitPair p else s).deriveCount ≤ s.deriveCount + 1 := by
  cases d with
  | false => exact Nat.le_succ _
  | true => exact Nat.le_refl _

/-- `SETF` while FRESH = 1 hands off and answers the word of the registers and writes none of them (R97). -/
theorem exec_setf_of_fresh {s : State} {f : Nat} {tw : TuningWord} (hf : s.fcode = none) (hfresh : s.fresh = true)
    (hw : tuningWord s.params.mode f s.recip.toNat s.shift.toNat = .ok tw) :
    exec (.setf f) s = .next ((s.transmit tw).respond .ok (valOf tw.toNat) 0) :=
  exec_setf_of_word hf (freshPair_of_fresh hfresh) hw

/-- Settles O55: the first `SETF` leaves a fresh pair (`freshPair_fresh`) with the same word
(`tuningWord_of_freshPair`), so the second only hands it off. -/
theorem setfTwiceDerivesOnce : Obligations.SetfTwiceDerivesOnce := by
  intro s t u f h ht hu
  obtain ⟨p, d, tw, hp, hw, rfl⟩ := exec_setf_ok h ht
  have hword := (tuningWord_of_freshPair hp f).trans hw
  rw [← commitIfDerived_params s d p] at hword
  cases (exec_setf_of_fresh ht (freshPair_fresh hp) hword).symm.trans hu
  refine ⟨tw, ?_, ?_, rfl, rfl, rfl, commitIfDerived_deriveCount_le s d p, rfl⟩ <;> simp

/-! ### `CAL 0` and `SETF` (R104) -/

/-- A `CAL 0` that succeeds with legal parameters has established NOMINAL (R67). -/
theorem exec_cal_zero_ok {s t : State} (hp : s.params.wf = true) (h : exec (.cal 0) s = .next t) (ht : t.fcode = none) :
    t = (s.establishClock s.nominal).respond .ok (valOf s.nominal) 0 ∧ t.clock = s.nominal := by
  obtain ⟨e, hc, rfl⟩ := exec_cal_ok h ht
  obtain ⟨hpos, _, _⟩ := (params_wf_iff _).1 hp
  cases (calibrate_zero hpos s.params.nominal.isLt).symm.trans hc
  exact ⟨rfl, Nat.mod_eq_of_lt s.params.nominal.isLt⟩

/-- A command that ends with FCODE = 0 began with FCODE = 0 (R114). -/
theorem fcode_none_of_exec {i : Instr} {s t : State} (h : exec i s = .next t) (ht : t.fcode = none) :
    s.fcode = none := by
  by_contra hf
  cases (exec_of_halted i hf).symm.trans h
  exact hf ht

/-- The pair a stale request obtains is that of ECLK (R91). -/
theorem freshPair_of_stale {s : State} {p : RecipPair} {d : Bool} (hs : s.fresh = false)
    (hp : s.freshPair = .ok (p, d)) : p = pairOf s.clock s.params.mode := by
  rcases freshPair_ok hp with ⟨hf, _, _⟩ | ⟨_, _, hd⟩
  · cases hs.symm.trans hf
  · obtain ⟨_, _, hpair⟩ := deriveStep_ok hd
    exact hpair

/-- Settles O56: `CAL 0` leaves the pair stale and ECLK at NOMINAL, so `SETF` computes on the nominal clock's pair. -/
theorem zeroCalibrationUsesTheNominalClock : Obligations.ZeroCalibrationUsesTheNominalClock := by
  intro s t u f hwf ht hu hok
  obtain ⟨rfl, hclock⟩ := exec_cal_zero_ok hwf ht (fcode_none_of_exec hu hok)
  obtain ⟨p, d, tw, hp, hw, rfl⟩ := exec_setf_ok hu hok
  obtain rfl := freshPair_of_stale rfl hp
  rw [hclock] at hw
  exact ⟨tw, hw, by simp⟩

end Sys2Proof.Machine
end

section
/-! PROOFS. Faults and the halted condition (60_exceptions.md): the status codes (R106), the reserved word (R107), when
the derive step faults with `ERR_RECIP_RANGE` (R112), faults as precise (R113), and the halted core (R114, R117). Last,
the idle step (70_reset_and_hazards.md R122). -/

namespace Sys2Proof.Machine
open Expected

/-! ### Taking a fault (R107, R113) -/

/-- A command that ends with a fault its core did not have has taken that fault and done nothing else (R113). -/
theorem eq_takeFault_of_exec {i : Instr} {s t : State} {c : FaultCode} (h : exec i s = .next t)
    (hf : s.fcode = none) (ht : t.fcode = some c) : t = s.takeFault c := by
  rcases exec_cases h with ⟨hne, _⟩ | ⟨_, c', rfl⟩ | ⟨_, _, _, _, _, rfl⟩ | ⟨_, _, _, _, rfl⟩ |
    ⟨_, _, _, _, _, _, _, _, rfl⟩ | ⟨_, _, _, _, _, _, _, _, rfl⟩ | ⟨_, _, _, rfl⟩
  · exact absurd hf hne
  · cases ht
    rfl
  all_goals simp [hf] at ht

/-- A step that records a fault consumes a command word and takes the fault (R113). -/
theorem eq_takeFault_of_step {s t : State} {c : FaultCode} (h : step s = .next t) (hf : s.fcode = none)
    (ht : t.fcode = some c) : t = ({ s with input := s.input.tail } : State).takeFault c := by
  rcases step_next_cases h with ⟨_, rfl⟩ | ⟨_, _, rfl⟩ | ⟨_, rest, hi, ⟨hne, _⟩ | ⟨_, _, rfl⟩ | ⟨_, i, _, he⟩⟩
  · cases hf.symm.trans ht
  · cases ht
  · exact absurd hf hne
  · cases ht
    rw [hi, List.tail_cons]
  · rw [hi, List.tail_cons]
    exact eq_takeFault_of_exec he hf ht

/-- Settles O17: the step has only taken the fault (`eq_takeFault_of_step`), which is the entry of R113. -/
theorem faultIsAllOrNothing : Obligations.FaultIsAllOrNothing := by
  intro s t c hf h ht
  obtain rfl := eq_takeFault_of_step h hf ht
  exact ⟨takeFault_eq_faulted _ c, rfl⟩

/-- Settles O12: the decoder rejects a reserved word, and a running core then takes `ERR_ILLEGAL`. -/
theorem reservedWordFaults : Obligations.ReservedWordFaults := by
  intro s w rest hp hf hi hr
  obtain ⟨e, he⟩ := decode_eq_error_of_reserved hr
  rw [step_of_command hp hi, takeCommand_of_reserved (s := { s with input := rest }) hf he, takeFault_eq_faulted]
  rfl

/-! ### The halted core (R114, R117) -/

/-- Whatever is presented to a halted core, unless it is a reset event, leaves the mark, the registers and the
hand-offs (R114). -/
theorem sameMark_of_step_of_halted {s t : State} (hf : s.fcode ≠ none) (hr : ∀ rest, s.input ≠ .reset :: rest)
    (h : step s = .next t) : SameMark s t := by
  rcases step_next_cases h with ⟨_, rfl⟩ | ⟨rest, hi, _⟩ | ⟨_, _, _, ⟨_, rfl⟩ | ⟨hn, _⟩ | ⟨hn, _⟩⟩
  · exact ⟨rfl, rfl, rfl, rfl, rfl, rfl, rfl⟩
  · exact absurd hi (hr rest)
  · exact ⟨rfl, rfl, rfl, rfl, rfl, rfl, rfl⟩
  · exact absurd hn hf
  · exact absurd hn hf

/-- Settles O13: a halted core refuses the word before it decodes it and each command before it runs it, and a step with
no reset event keeps the mark (`sameMark_of_step_of_halted`). -/
theorem haltedCoreRefusesEveryWord : Obligations.HaltedCoreRefusesEveryWord := by
  refine ⟨fun s w rest c hp hf hi => ?_, fun s i c hf => ?_, fun s t c hf hr h => ?_⟩
  · have hhalted : ({ s with input := rest } : State).fcode ≠ none := by simp [hf]
    rw [step_of_command hp hi, takeCommand_of_halted hhalted, refuse_eq_refused]
  · rw [exec_of_halted i (by simp [hf]), refuse_eq_refused]
  · obtain ⟨hcode, _, _, _, _, _, hhandoffs⟩ := sameMark_of_step_of_halted (by simp [hf]) hr h
    exact ⟨hcode.trans hf, hhandoffs⟩

/-- Settles O16: without a reset event the mark stays (`sameMark_of_step_of_halted`); the step on one is
`takeReset`. -/
theorem resetIsTheOnlyWayOut : Obligations.ResetIsTheOnlyWayOut := by
  intro s t h
  refine ⟨fun hr c hf => ?_, fun ⟨rest, hi⟩ => ?_⟩
  · obtain ⟨hcode, _⟩ := sameMark_of_step_of_halted (by simp [hf]) hr h
    exact hcode.trans hf
  · cases (step_of_reset (params_wf_of_step h) hi).symm.trans h
    exact ⟨rfl, rfl, rfl⟩

/-! ### `ERR_RECIP_RANGE` (R112) -/

/-- With an established clock the derive step faults with `ERR_RECIP_RANGE` exactly where the reciprocal of ECLK does
not fit RECIP (R75). -/
theorem deriveStep_eq_recipRange_iff {s : State} (hc : s.clkv = true) :
    s.deriveStep = .error .errRecipRange ↔ ¬ pairFits s := by
  rw [← recipFits_iff_pairFits]
  rcases deriveStep_cases s with ⟨hn, _⟩ | ⟨_, hwide, hd⟩ | ⟨_, hfits, hd⟩
  · cases hn.symm.trans hc
  · simp [hd, hwide]
  · simp [hd, hfits]

/-- A stale pair is obtained from the derive step, with its faults (R91). -/
theorem freshPair_eq_error_iff_of_stale {s : State} {c : FaultCode} (hs : s.fresh = false) :
    s.freshPair = .error c ↔ s.deriveStep = .error c := by
  cases hd : s.deriveStep with
  | error c' => simp [freshPair_of_stale_error hs hd]
  | ok p => simp [freshPair_of_stale_ok hs hd]

/-- `tuning_word` has one fault, `ERR_OVERFLOW` (R88). -/
theorem eq_errOverflow_of_tuningWord {mode : Mode} {f r sh : Nat} {c : FaultCode}
    (h : tuningWord mode f r sh = .error c) : c = .errOverflow := by
  rcases tuningWord_cases mode f r sh with ⟨_, hw⟩ | ⟨_, _, hw⟩ | ⟨_, _, hw⟩ <;> cases hw.symm.trans h
  rfl

theorem derive_recipRange_iff {s t : State} (hf : s.fcode = none) (h : exec .derive s = .next t) :
    t.fcode = some .errRecipRange ↔ s.deriveStep = .error .errRecipRange := by
  rcases execDerive_cases h with ⟨hne, _⟩ | ⟨_, c, hd, rfl⟩ | ⟨_, p, hd, rfl⟩
  · exact absurd hf hne
  · simp [hd]
  · simp [hd, hf]

/-- Of the faults of a request only those of obtaining the pair can be `ERR_RECIP_RANGE`. -/
theorem request_recipRange_iff {i : Instr} {f : Nat} {s t : State} (hi : i = .f2w f ∨ i = .setf f)
    (hf : s.fcode = none) (h : exec i s = .next t) :
    t.fcode = some .errRecipRange ↔ s.freshPair = .error .errRecipRange := by
  rcases execRequest_cases hi h with
    ⟨hne, _⟩ | ⟨_, c, rfl, hp | ⟨p, d, hp, hw⟩⟩ | ⟨_, p, d, tw, hp, _, ⟨_, rfl⟩ | ⟨_, rfl⟩⟩
  · exact absurd hf hne
  · simp [hp]
  · simp [hp, eq_errOverflow_of_tuningWord hw]
  · simp [hp, hf]
  · simp [hp, hf]

/-- A command that runs the derive step faults with `ERR_RECIP_RANGE` exactly where the reciprocal of ECLK does not fit
RECIP. -/
theorem recipRange_iff_not_pairFits {i : Instr} {s t : State} (hf : s.fcode = none) (hc : s.clkv = true)
    (hi : i = .derive ∨ s.fresh = false ∧ ((∃ f, i = .f2w f) ∨ ∃ f, i = .setf f)) (h : exec i s = .next t) :
    t.fcode = some .errRecipRange ↔ ¬ pairFits s := by
  rw [← deriveStep_eq_recipRange_iff hc]
  rcases hi with rfl | ⟨hs, ⟨f, rfl⟩ | ⟨f, rfl⟩⟩
  · exact derive_recipRange_iff hf h
  · exact (request_recipRange_iff (.inl rfl) hf h).trans (freshPair_eq_error_iff_of_stale hs)
  · exact (request_recipRange_iff (.inr rfl) hf h).trans (freshPair_eq_error_iff_of_stale hs)

theorem pairFits_of_maxPrecision {s : State} (hm : s.params.mode = .maxPrecision) : pairFits s := by
  intro hss
  cases hss.symm.trans hm

/-- 65 bits hold every reciprocal (R73). -/
theorem pairFits_of_recipW_65 {s : State} (hw : s.params.recipW = 65) : pairFits s := by
  intro _
  rw [hw]
  exact (recipOf_le s.clock s.params.mode).trans_lt (by decide)

theorem not_pairFits_iff_of_shiftScaled {s : State} (hm : s.params.mode = .shiftScaled) :
    ¬ pairFits s ↔ 2 ^ s.params.recipW ≤ recipOf s.clock .shiftScaled := by
  simp [pairFits, hm]

/-- Settles O39: the fault is that the pair does not fit (`recipRange_iff_not_pairFits`), which is a bound on the
quotient in `SHIFT_SCALED` mode, for 32 bits a bound on the clock (`recipOf_shiftScaled_lt_iff`). -/
theorem recipRangeFaultsExactlyOnSlowClocks : Obligations.RecipRangeFaultsExactlyOnSlowClocks := by
  intro s t i hinv hf hc hi h
  rw [ne_eq, recipRange_iff_not_pairFits hf hc hi h, not_not]
  refine ⟨pairFits_of_maxPrecision, pairFits_of_recipW_65, not_pairFits_iff_of_shiftScaled, fun hm hw => ?_⟩
  have hlt : s.clock < 2 ^ 33 := s.eclk.isLt.trans (by decide)
  rw [not_pairFits_iff_of_shiftScaled hm, hw, ← not_lt, recipOf_shiftScaled_lt_iff (hinv.clock_pos hc) hlt]
  omega

/-! ### The idle step (R122) and the status codes (R106) -/

/-- Settles O10: it is `step_of_idle`. -/
theorem idleCoreKeepsAllItsState : Obligations.IdleCoreKeepsAllItsState := fun _ hp hi => step_of_idle hp hi

/-- Settles O18: the table of R106, read off code by code. -/
theorem statusCodeValues : Obligations.StatusCodeValues := by
  refine ⟨rfl, fun c => ?_⟩
  cases c <;> exact ⟨rfl, nofun, nofun⟩

end Sys2Proof.Machine
end
